-- ==== Sys2Proof/Word.lean ====
section
/-! DEFINITION. The fixed widths of the ZDC: bytes, register words, word slots, and the 39-bit transaction word. -/

namespace Sys2Proof

/-- A byte is 8 bits (R8). -/
abbrev Byte := BitVec 8

/-- A register slot and the data of one transaction are 32 bits (R30, R39). -/
abbrev Word := BitVec 32

/-- A word address of the register space, 0 to 63 (R30). -/
abbrev Slot := BitVec 6

/-- The transaction format T39, `X = {we, waddr, wdata}` (R50, R51). -/
abbrev T39 := BitVec 39

/-- `clamp(x, lo, hi) = min(max(x, lo), hi)` on unbounded integers (R9). -/
def clamp (x lo hi : Int) : Int := min (max x lo) hi

end Sys2Proof
end

