-- ==== Sys2Proof/Syntax.lean ====
section
/-! DEFINITION. The instructions of the ZDC, one constructor per row of spec/opcode_table.json (R55), and their names. -/

namespace Sys2Proof

/-- One instruction is one transaction (R91), with every field the row leaves variable as an operand. `ign` is write
data a read ignores (R51: don't care; log entry 4): no meaning reads it. -/
inductive Instr where
  /-- R72: run the digit encoder on `TEMP`. -/
  | encode
  /-- R84: assemble the packet from `DIGITS`. -/
  | build
  /-- R86: ENCODE then BUILD in one step. -/
  | encodeBuild
  /-- R94: write `TEMP`. -/
  | wrTemp (wdata : Word)
  /-- R95: write `DIGITS`. -/
  | wrDigits (wdata : Word)
  /-- R96: clear `STATUS.ILLEGAL` when bit 1 is 1. -/
  | wrStatus (wdata : Word)
  /-- R97: read `TEMP`. -/
  | rdTemp (ign : Word)
  /-- R98: read `DIGITS`. -/
  | rdDigits (ign : Word)
  /-- R99: read `SCALED`. -/
  | rdScaled (ign : Word)
  /-- R100: read `STATUS`. -/
  | rdStatus (ign : Word)
  /-- R101: read window word `w`, 0 to 15 (slot 16 + w). -/
  | rdPkt (w : BitVec 4) (ign : Word)
  /-- R102: read packet byte 64 (slot 32). -/
  | rdPkt16 (ign : Word)
  /-- R105: write of a reserved command word `c` to slot 3. -/
  | cmdRsvd (c : Word)
  /-- R104: every other transaction: `we`, the slot, and the write data. -/
  | razWi (we : Bool) (slot : Slot) (wdata : Word)
deriving DecidableEq, Repr

/-- The mnemonics of R55. -/
inductive Mnemonic where
  | ENCODE | BUILD | ENCODE_BUILD | WR_TEMP | WR_DIGITS | WR_STATUS | RD_TEMP | RD_DIGITS | RD_SCALED | RD_STATUS
  | RD_PKT | RD_PKT16 | CMD_RSVD | RAZ_WI
deriving DecidableEq, Repr

/-- The row of the transaction map (R55) an instruction belongs to. -/
def Instr.mnemonic : Instr → Mnemonic
  | .encode => .ENCODE
  | .build => .BUILD
  | .encodeBuild => .ENCODE_BUILD
  | .wrTemp _ => .WR_TEMP
  | .wrDigits _ => .WR_DIGITS
  | .wrStatus _ => .WR_STATUS
  | .rdTemp _ => .RD_TEMP
  | .rdDigits _ => .RD_DIGITS
  | .rdScaled _ => .RD_SCALED
  | .rdStatus _ => .RD_STATUS
  | .rdPkt _ _ => .RD_PKT
  | .rdPkt16 _ => .RD_PKT16
  | .cmdRsvd _ => .CMD_RSVD
  | .razWi _ _ _ => .RAZ_WI

end Sys2Proof
end

