-- ==== Sys2Proof/WellFormed.lean ====
section
/-! DEFINITION. Which terms of Instr stand for a transaction: the two rows whose operands the other rows restrict. -/

namespace Sys2Proof

/-- The reserved command words: every word but the three commands (R54, R57). -/
def isReservedCommand (c : Word) : Bool := c ≠ 1 && c ≠ 2 && c ≠ 3

/-- The slots RAZ_WI covers (R55, R104): a read of slot 3, 5 to 15 or 33 to 63; a write to slot 2, 5 to 15 or 16 to 63. -/
def isRazWiSlot (we : Bool) (slot : Slot) : Bool :=
  if we then slot = 2 || 5 ≤ slot.toNat
  else slot = 3 || (5 ≤ slot.toNat && slot.toNat ≤ 15) || 33 ≤ slot.toNat

/-- An instruction term is well formed when no row of higher priority (R55) takes its word. -/
def Instr.wf : Instr → Bool
  | .cmdRsvd c => isReservedCommand c
  | .razWi we slot _ => isRazWiSlot we slot
  | .encode | .build | .encodeBuild => true
  | .wrTemp _ | .wrDigits _ | .wrStatus _ => true
  | .rdTemp _ | .rdDigits _ | .rdScaled _ | .rdStatus _ | .rdPkt _ _ | .rdPkt16 _ => true

end Sys2Proof
end

