-- ==== Sys2Proof/Decode.lean ====
section
/-! DEFINITION. The decoder, total on every T39 word (R58), the encoder after it, and the match and mask table of R56. -/

namespace Sys2Proof

/-! ### The fields of a transaction word (R51) -/

/-- `we`, bit 38: 1 write, 0 read. -/
def T39.we (x : T39) : Bool := x.getLsbD 38

/-- `waddr`, bits 37:32. -/
def T39.waddr (x : T39) : Slot := x.extractLsb' 32 6

/-- `wdata`, bits 31:0. -/
def T39.wdata (x : T39) : Word := x.extractLsb' 0 32

/-- The word `X = {we, waddr, wdata}` (R51). -/
def T39.ofFields (we : Bool) (waddr : Slot) (wdata : Word) : T39 := BitVec.ofBool we ++ waddr ++ wdata

/-! ### Decoding (R54, R55) -/

/-- A command word, the data of a write to slot 3 (R52, R54): the whole 32-bit word selects the command. -/
def decodeCommand (c : Word) : Instr :=
  if c = 1 then .encode
  else if c = 2 then .build
  else if c = 3 then .encodeBuild
  else .cmdRsvd c

/-- A write transaction (R55). -/
def decodeWrite (slot : Slot) (wdata : Word) : Instr :=
  if slot = 0 then .wrTemp wdata
  else if slot = 1 then .wrDigits wdata
  else if slot = 3 then decodeCommand wdata
  else if slot = 4 then .wrStatus wdata
  else .razWi true slot wdata

/-- A read transaction (R55); the packet window is the slots with `waddr[5:4] = 01` and slot 32. -/
def decodeRead (slot : Slot) (ign : Word) : Instr :=
  if slot = 0 then .rdTemp ign
  else if slot = 1 then .rdDigits ign
  else if slot = 2 then .rdScaled ign
  else if slot = 4 then .rdStatus ign
  else if slot.extractLsb' 4 2 = 1 then .rdPkt (slot.extractLsb' 0 4) ign
  else if slot = 32 then .rdPkt16 ign
  else .razWi false slot ign

/-- Every one of the 2^39 transaction words is exactly one instruction (R58): nothing is rejected. -/
def decode (x : T39) : Instr :=
  if x.we then decodeWrite x.waddr x.wdata else decodeRead x.waddr x.wdata

/-- Why a bare number is no transaction word. -/
inductive DecodeReject where
  /-- A bit above bit 38 is set: a T39 word has 39 bits (R50). Safe: no such word is a transaction. -/
  | widerThanT39
deriving DecidableEq, Repr

/-- Decoding of a number of any size, rejecting by name what has more than 39 bits (log entry 5). -/
def decodeNat (w : Nat) : Except DecodeReject Instr :=
  if w < 2 ^ 39 then .ok (decode (BitVec.ofNat 39 w)) else .error .widerThanT39

/-- The instruction the decoder reads from a word of `nbits` bits of the opcode table; the bits above `nbits` are 0
(log entry 5). -/
def decodeTableWord (nbits w : Nat) : Option Instr :=
  (decodeNat (w % 2 ^ nbits)).toOption

/-! ### Encoding (R51, R54, R55) -/

/-- The `we` bit an instruction is encoded with. -/
def Instr.weBit : Instr → Bool
  | .encode | .build | .encodeBuild | .wrTemp _ | .wrDigits _ | .wrStatus _ | .cmdRsvd _ => true
  | .rdTemp _ | .rdDigits _ | .rdScaled _ | .rdStatus _ | .rdPkt _ _ | .rdPkt16 _ => false
  | .razWi we _ _ => we

/-- The word slot an instruction is encoded with. -/
def Instr.slot : Instr → Slot
  | .encode | .build | .encodeBuild | .cmdRsvd _ => 3
  | .wrTemp _ | .rdTemp _ => 0
  | .wrDigits _ | .rdDigits _ => 1
  | .rdScaled _ => 2
  | .wrStatus _ | .rdStatus _ => 4
  | .rdPkt w _ => 1#2 ++ w
  | .rdPkt16 _ => 32
  | .razWi _ slot _ => slot

/-- The 32 data bits an instruction is encoded with. -/
def Instr.data : Instr → Word
  | .encode => 1
  | .build => 2
  | .encodeBuild => 3
  | .wrTemp d | .wrDigits d | .wrStatus d | .cmdRsvd d | .razWi _ _ d => d
  | .rdTemp d | .rdDigits d | .rdScaled d | .rdStatus d | .rdPkt _ d | .rdPkt16 d => d

/-- The transaction word of an instruction. -/
def encode (i : Instr) : T39 := T39.ofFields i.weBit i.slot i.data

/-! ### The match and mask table (R56) -/

/-- A row of the opcode table: a word `X` matches when `(X AND mask) = pattern`. -/
structure Row where
  mnemonic : Mnemonic
  pattern : T39
  mask : T39
  priority : Nat
deriving DecidableEq, Repr

/-- `(X AND mask) = match` (R56). -/
def Row.selects (r : Row) (x : T39) : Bool := x &&& r.mask = r.pattern

/-- The priority 1 rows (R55, R56). -/
def priorityOneRows : List Row :=
  [⟨.ENCODE, 0x4300000001, 0x7FFFFFFFFF, 1⟩, ⟨.BUILD, 0x4300000002, 0x7FFFFFFFFF, 1⟩,
   ⟨.ENCODE_BUILD, 0x4300000003, 0x7FFFFFFFFF, 1⟩, ⟨.WR_TEMP, 0x4000000000, 0x7F00000000, 1⟩,
   ⟨.WR_DIGITS, 0x4100000000, 0x7F00000000, 1⟩, ⟨.WR_STATUS, 0x4400000000, 0x7F00000000, 1⟩,
   ⟨.RD_TEMP, 0x0000000000, 0x7F00000000, 1⟩, ⟨.RD_DIGITS, 0x0100000000, 0x7F00000000, 1⟩,
   ⟨.RD_SCALED, 0x0200000000, 0x7F00000000, 1⟩, ⟨.RD_STATUS, 0x0400000000, 0x7F00000000, 1⟩,
   ⟨.RD_PKT, 0x1000000000, 0x7000000000, 1⟩, ⟨.RD_PKT16, 0x2000000000, 0x7F00000000, 1⟩]

/-- The rows of priority 2 and 3 (R55, R56). -/
def laterRows : List Row :=
  [⟨.CMD_RSVD, 0x4300000000, 0x7F00000000, 2⟩, ⟨.RAZ_WI, 0x0000000000, 0x0000000000, 3⟩]

/-- The whole table, by priority (R58). -/
def opcodeTable : List Row := priorityOneRows ++ laterRows

/-- The row the priorities of R55 select for a word: the first that matches. -/
def selectRow (x : T39) : Option Row := opcodeTable.find? (fun r => r.selects x)

end Sys2Proof
end

