-- ==== Sys2Proof/Config.lean ====
section
/-! DEFINITION. The parameters of R7, each at the value the spec fixes, and the values the spec leaves free (no body). -/

namespace Sys2Proof.Config

open Sys2Proof

/-- The byte that stands for a blanked digit, `BLANK` (R7). -/
def blank : Byte := 0x20

/-- The largest scaled value, `SCALED_MAX` (R7). -/
def scaledMax : Int := 9999

/-- The least scaled value, `SCALED_MIN` (R7). -/
def scaledMin : Int := 0

/-- High byte of the header 0x3AB5, packet byte 1 (R7, R75). -/
def headerHigh : Byte := 0x3A

/-- Low byte of the header 0x3AB5, packet byte 2 (R7, R75). -/
def headerLow : Byte := 0xB5

/-- Packet byte 3, the "normal command" code (R7, R76). -/
def commandByte : Byte := 0x01

/-- Packet bytes 8 and 10, the fixed mode flags (R7, R77). -/
def modeFlag : Byte := 0x01

/-- Packet byte 9, the unit indicator, always Celsius (R77, R78). -/
def unitByte : Byte := 0x01

/-- The unit of the caller's temperature (R7, item I1 of 93_implementation_defined.md). -/
inductive TempUnit where
  | celsius
  | fahrenheit
deriving DecidableEq, Repr, Inhabited

/-- The caller's unit is implementation-defined and no rule reads it (R7, R14; log entry 11): a free constant. -/
opaque unit : TempUnit

/-- FREE VALUE, one per draw: how many cycles lie between the edge that accepts a request and the cycle of its response;
0 puts the response in the very next cycle (R32, R128: "The number of cycles from acceptance to response is not
specified"; log entry 6). It is finite (R106). -/
opaque busyCycles : Nat → Nat

/-- FREE VALUE, one per draw: for how many cycles the port keeps `req_ready = 0` after reset has been released or a
response has been given (R120, R32; log entries 6 and 7). -/
opaque holdOffCycles : Nat → Nat

end Sys2Proof.Config
end

