-- ==== Sys2Proof/Machine/State.lean ====
section
/-! DEFINITION. The state of the ZDC (R12) with the host's port beside it, its reset value (R25), and the reasons a step
could stop. -/

namespace Sys2Proof.Machine

open Sys2Proof

/-- Why the machine could stop with a fault: NO reason exists, and the type is empty. R106: "The ZDC raises no
synchronous exception and never traps" (log entry 14). Nobody raises one; safe. -/
inductive Fault where
deriving DecidableEq, Repr

/-- Why an instruction has no meaning. -/
inductive Refusal where
  /-- Raised by an arm of `exec` for an instruction that is not modelled yet, by its mnemonic; no arm is left that does.
  Safe: a run stops where the hardware goes on. -/
  | notModelled (mnemonic : String)
deriving DecidableEq, Repr

/-- What the outside world does to the ZDC: the two events that change its state (R6, R33, R119; log entry 1). -/
inductive HostInput where
  /-- The host presents the transaction word on the port until it is accepted (R32, R33). -/
  | request (x : T39)
  /-- A rising clock edge with `rst_n = 0` (R119). -/
  | reset
deriving DecidableEq, Repr

/-- The architectural state of R12, each register under its own name, and the port. -/
structure State where
  /-- `TEMP`, slot 0: the temperature in signed milli-degrees (R14). -/
  temp : Word
  /-- `DIGITS`, slot 1: the display value, `DIG[k]` in bits 8k+7:8k (R15). -/
  digits : Word
  /-- `SCALED`, slot 2: the scaled value of the last ENCODE in bits 13:0 (R16). -/
  scaled : Word
  /-- `STATUS.PKT_VALID`, bit 0 (R18, R19). -/
  pktValid : Bool
  /-- `STATUS.ILLEGAL`, bit 1 (R18, R20). -/
  illegal : Bool
  /-- `PKT[0..64]`, the packet buffer in wire order (R21). -/
  pkt : Vector Byte 65
  /-- The response of the last transaction performed since reset (R10 `rdata`, R31): none where there is none
  (log entry 3). -/
  rsp : Option Word
  /-- What the host and the reset input do next, oldest first: the model's input, not the spec's state (log entry 1). -/
  host : List HostInput
deriving DecidableEq, Repr

/-- The state after reset (R25): every register and packet byte zero, no response (R119), no input pending. -/
def State.reset : State where
  temp := 0
  digits := 0
  scaled := 0
  pktValid := false
  illegal := false
  pkt := Vector.replicate 65 0
  rsp := none
  host := []

end Sys2Proof.Machine
end

