-- ==== Sys2Proof/Machine/Operands.lean ====
section
/-! DEFINITION. The operand forms: DIGITS as four bytes, SCALED as read, and the words of the packet window (R15, R16, R36). -/

namespace Sys2Proof.Machine

open Sys2Proof

/-- Four bytes in a word, `{b3, b2, b1, b0}`: the byte of lowest index in bits 7:0 (R38). -/
def packBytes (b : Vector Byte 4) : Word := b[3] ++ b[2] ++ b[1] ++ b[0]

/-- `DIG[k] = DIGITS[8k+7:8k]`, the digit bytes of a `DIGITS` word (R10, R15, R80). -/
def digitBytes (digits : Word) : Vector Byte 4 :=
  #v[digits.extractLsb' 0 8, digits.extractLsb' 8 8, digits.extractLsb' 16 8, digits.extractLsb' 24 8]

/-- `zext_32(b)` of a byte (R9). -/
def zextByte (b : Byte) : Word := b.setWidth 32

/-- What the register `SCALED` holds for a reader: bits 13:0 as stored, bits 31:14 read 0 (R16; log entry 13). -/
def State.scaledValue (s : State) : Word := (s.scaled.extractLsb' 0 14).setWidth 32

/-- Window word `w` in 0..15: `{PKT[4w+3], PKT[4w+2], PKT[4w+1], PKT[4w]}` (R36, R101). -/
def State.pktWord (s : State) (w : BitVec 4) : Word :=
  have := w.isLt
  packBytes #v[s.pkt[4 * w.toNat], s.pkt[4 * w.toNat + 1], s.pkt[4 * w.toNat + 2], s.pkt[4 * w.toNat + 3]]

/-- Window word 16: `zext_32(PKT[64])` (R36, R102). -/
def State.pktLastWord (s : State) : Word := zextByte s.pkt[64]

end Sys2Proof.Machine
end

