-- ==== Sys2Proof/Machine/Ops.lean ====
section
/-! DEFINITION. The shared operations of a transaction: answering it, presenting one, and the reset input. The ZDC takes
no exceptions and returns from none (R106, R110, R111), so there is no exception entry here; its one error indication is
`State.raiseIllegal` of Flags.lean. -/

namespace Sys2Proof.Machine

open Sys2Proof

/-- `rdata <- v`: the read data the current transaction returns to the host (R10, R92). -/
def State.respond (s : State) (rdata : Word) : State := { s with rsp := some rdata }

/-- A transaction is complete: the state with its response (R34). -/
def answer (s : State) (rdata : Word) : Host.Outcome State Fault Refusal := .next (s.respond rdata)

/-- A write is complete: "Every write returns `rdata = 0x00000000`" (R92). -/
def answerWrite (s : State) : Host.Outcome State Fault Refusal := answer s 0

/-- The host's next input is the request `x` (R32, R33). -/
def State.withRequest (s : State) (x : T39) : State := { s with host := .request x :: s.host }

/-- The next input is an edge with `rst_n = 0` (R119). -/
def State.withReset (s : State) : State := { s with host := .reset :: s.host }

/-- The effect of a rising edge with `rst_n = 0`: every piece of state takes its reset value (R119, R25). What the host
does afterwards is not state of the ZDC and stays. -/
def State.resetInput (s : State) : State := { State.reset with host := s.host }

end Sys2Proof.Machine
end

