-- ==== Sys2Proof/Machine/Encoder.lean ====
section
/-! DEFINITION. The digit encoder: the scaler, the digit extractor, blanking, and ENCODE (R63 to R72). -/

namespace Sys2Proof.Machine

open Sys2Proof

/-- `S = clamp(sint(TEMP) div 100, 0, 9999)` (R65). `div` is floor division (R9), which Lean's `/` on Int is for the
positive divisor 100. -/
def scale (temp : Word) : Nat := (clamp (temp.toInt / 100) Config.scaledMin Config.scaledMax).toNat

/-- The four digits of `S`, most significant first (R68). -/
def digitsOf (S : Nat) : Vector Byte 4 :=
  #v[BitVec.ofNat 8 (S / 1000 % 10), BitVec.ofNat 8 (S / 100 % 10), BitVec.ofNat 8 (S / 10 % 10),
     BitVec.ofNat 8 (S % 10)]

/-- `for i in is: if d[i] == 0: d[i] = BLANK else: break` (R69). -/
def blankLoop (d : Vector Byte 4) : List (Fin 4) → Vector Byte 4
  | [] => d
  | i :: rest => if d[i] = 0 then blankLoop (d.set i Config.blank) rest else d

/-- The displayed codes of `S`: the digits after the loop over positions 0, 1, 2 (R69). -/
def display (S : Nat) : Vector Byte 4 := blankLoop (digitsOf S) [0, 1, 2]

/-- The body of ENCODE: `SCALED <- zext_32(S[13:0])` and `DIGITS <- {d[3], d[2], d[1], d[0]}` (R72). -/
def State.encodeBody (s : State) : State :=
  { s with
    scaled := (BitVec.ofNat 14 (scale s.temp)).setWidth 32
    digits := packBytes (display (scale s.temp)) }

/-- ENCODE (R72). -/
def execEncode (s : State) : Host.Outcome State Fault Refusal := answerWrite s.encodeBody

end Sys2Proof.Machine
end

