-- ==== Sys2Proof/Machine/Flags.lean ====
section
/-! DEFINITION. STATUS: its word, and the only ways its two flags change (R18 to R20). There are no condition codes (R23). -/

namespace Sys2Proof.Machine

open Sys2Proof

/-- `STATUS` as read, `{30'b0, ILLEGAL, PKT_VALID}` (R35, R100). -/
def State.statusWord (s : State) : Word := 0#30 ++ BitVec.ofBool s.illegal ++ BitVec.ofBool s.pktValid

/-- `STATUS.ILLEGAL <- 1`, the one error indication of the ZDC (R20, R106). -/
def State.raiseIllegal (s : State) : State := { s with illegal := true }

/-- `if wdata[1] == 1: STATUS.ILLEGAL <- 0`; every other bit is ignored (R18, R96). -/
def State.clearIllegal (wdata : Word) (s : State) : State :=
  if wdata.getLsbD 1 then { s with illegal := false } else s

/-- `STATUS.PKT_VALID <- 1` (R19, R84). -/
def State.setPktValid (s : State) : State := { s with pktValid := true }

end Sys2Proof.Machine
end

