-- ==== Sys2Proof/Machine/HostAccess.lean ====
section
/-! DEFINITION. The host's register writes and reads, the accesses with no effect and the reserved commands (R91 to R105). -/

namespace Sys2Proof.Machine

open Sys2Proof

/-- WR_TEMP (R94): any value is stored unchanged (R93) and nothing is encoded. -/
def execWrTemp (wdata : Word) (s : State) : Host.Outcome State Fault Refusal := answerWrite { s with temp := wdata }

/-- WR_DIGITS (R95): any value is stored unchanged (R93) and no packet is built. -/
def execWrDigits (wdata : Word) (s : State) : Host.Outcome State Fault Refusal := answerWrite { s with digits := wdata }

/-- WR_STATUS (R96). -/
def execWrStatus (wdata : Word) (s : State) : Host.Outcome State Fault Refusal := answerWrite (s.clearIllegal wdata)

/-- RD_TEMP (R97). -/
def execRdTemp (s : State) : Host.Outcome State Fault Refusal := answer s s.temp

/-- RD_DIGITS (R98). -/
def execRdDigits (s : State) : Host.Outcome State Fault Refusal := answer s s.digits

/-- RD_SCALED (R99). -/
def execRdScaled (s : State) : Host.Outcome State Fault Refusal := answer s s.scaledValue

/-- RD_STATUS (R100): reading does not clear `ILLEGAL`. -/
def execRdStatus (s : State) : Host.Outcome State Fault Refusal := answer s s.statusWord

/-- RD_PKT (R101). -/
def execRdPkt (w : BitVec 4) (s : State) : Host.Outcome State Fault Refusal := answer s (s.pktWord w)

/-- RD_PKT16 (R102). -/
def execRdPkt16 (s : State) : Host.Outcome State Fault Refusal := answer s s.pktLastWord

/-- CMD_RSVD (R105): sets `ILLEGAL` whatever the word is; the word is not recorded (R106). -/
def execCmdRsvd (s : State) : Host.Outcome State Fault Refusal := answerWrite s.raiseIllegal

/-- RAZ_WI (R104): reads as zero, and a write is ignored and answers zero too (R92). -/
def execRazWi (s : State) : Host.Outcome State Fault Refusal := answer s 0

end Sys2Proof.Machine
end

