-- ==== Sys2Proof/Machine/Packet.lean ====
section
/-! DEFINITION. The packet codec: the 65-byte frame, the checksum accumulator, BUILD and ENCODE_BUILD (R73 to R90). -/

namespace Sys2Proof.Machine

open Sys2Proof

/-- The frame before its checksum: a zero-filled buffer with the header, the command byte, the digit bytes verbatim and
the flag bytes (R73 to R80). -/
def frame (d : Vector Byte 4) : Vector Byte 65 :=
  (Vector.replicate 65 0)
    |>.set 1 Config.headerHigh |>.set 2 Config.headerLow |>.set 3 Config.commandByte
    |>.set 4 d[0] |>.set 5 d[1] |>.set 6 d[2] |>.set 7 d[3]
    |>.set 8 Config.modeFlag |>.set 9 Config.unitByte |>.set 10 Config.modeFlag

/-- The accumulator over bytes: `ACC = (ACC + P[i]) mod 256`, carry out discarded (R82). -/
def accumulate (bytes : List Byte) : Byte := bytes.foldl (· + ·) 0

/-- `P[0..12]`, the bytes the checksum is taken over (R81, R82). -/
def checksumBytes (p : Vector Byte 65) : List Byte := p.toList.take 13

/-- `pkt(D)`: the frame with its checksum at byte 13 (R73, R81). -/
def packet (d : Vector Byte 4) : Vector Byte 65 := (frame d).set 13 (accumulate (checksumBytes (frame d)))

/-- The body of BUILD: `PKT <- pkt(DIG)`, all 65 bytes at once, and `STATUS.PKT_VALID <- 1` (R84). -/
def State.buildBody (s : State) : State := { s with pkt := packet (digitBytes s.digits) }.setPktValid

/-- BUILD (R84). -/
def execBuild (s : State) : Host.Outcome State Fault Refusal := answerWrite s.buildBody

/-- ENCODE_BUILD: the body of ENCODE, then the body of BUILD on the `DIGITS` it wrote, in one step (R86). -/
def execEncodeBuild (s : State) : Host.Outcome State Fault Refusal := answerWrite s.encodeBody.buildBody

end Sys2Proof.Machine
end

