-- ==== Sys2Proof/Machine/Dispatch.lean ====
section
/-! DEFINITION. One arm per instruction, each a direct call of its meaning. -/

namespace Sys2Proof.Machine

open Sys2Proof

/-- The effect of one accepted transaction (R11, R33, R34). -/
def exec (i : Instr) (s : State) : Host.Outcome State Fault Refusal :=
  match i with
  | .encode => Sys2Proof.Machine.execEncode s
  | .build => Sys2Proof.Machine.execBuild s
  | .encodeBuild => Sys2Proof.Machine.execEncodeBuild s
  | .wrTemp wdata => Sys2Proof.Machine.execWrTemp wdata s
  | .wrDigits wdata => Sys2Proof.Machine.execWrDigits wdata s
  | .wrStatus wdata => Sys2Proof.Machine.execWrStatus wdata s
  | .rdTemp _ => Sys2Proof.Machine.execRdTemp s
  | .rdDigits _ => Sys2Proof.Machine.execRdDigits s
  | .rdScaled _ => Sys2Proof.Machine.execRdScaled s
  | .rdStatus _ => Sys2Proof.Machine.execRdStatus s
  | .rdPkt w _ => Sys2Proof.Machine.execRdPkt w s
  | .rdPkt16 _ => Sys2Proof.Machine.execRdPkt16 s
  | .cmdRsvd _ => Sys2Proof.Machine.execCmdRsvd s
  | .razWi _ _ _ => Sys2Proof.Machine.execRazWi s

end Sys2Proof.Machine
end

