-- ==== Sys2Proof/Machine/Step.lean ====
section
/-! DEFINITION. One step: the next host input, a reset or an accepted transaction, takes effect as a whole (R11, R34). -/

namespace Sys2Proof.Machine

open Sys2Proof

/-- One step. A request is decoded and performed; a reset edge resets; with no input the state does not change (R11,
R119, R129; log entry 2). -/
def step (s : State) : Host.Outcome State Fault Refusal :=
  match s.host with
  | [] => .next s
  | .reset :: rest => .next ({ s with host := rest }.resetInput)
  | .request x :: rest => exec (decode x) { s with host := rest }

/-- The table word `w`, its bits above `nbits` zero, as the host's next request (log entries 1 and 5). -/
def State.withFetchWord (s : State) (nbits w : Nat) : State := s.withRequest (BitVec.ofNat 39 (w % 2 ^ nbits))

end Sys2Proof.Machine
end

