-- ==== Sys2Proof/Machine/AddressMap.lean ====
section
/-! DEFINITION. The register space by slot (R33, R35, R36): the two transactions as the address map gives them, written
beside the instruction decode so that the two views can be held against each other. -/

namespace Sys2Proof.Machine

open Sys2Proof

/-- Window word `w`: packet byte `4w + j` in bits `8j+7:8j`, zero past byte 64 (R36). -/
def windowWord (p : Vector Byte 65) (w : Nat) : Word :=
  packBytes #v[p.toList.getD (4 * w) 0, p.toList.getD (4 * w + 1) 0, p.toList.getD (4 * w + 2) 0,
    p.toList.getD (4 * w + 3) 0]

/-- What `BusRead(waddr)` returns: the "read" column of R35. -/
def busRead (s : State) (waddr : Slot) : Word :=
  match waddr.toNat with
  | 0 => s.temp
  | 1 => s.digits
  | 2 => s.scaledValue
  | 4 => s.statusWord
  | n => if 16 ≤ n ∧ n ≤ 32 then windowWord s.pkt (n - 16) else 0

/-- What a command word does (R54): the three commands, and any other value sets `ILLEGAL`. -/
def performCommand (c : Word) (s : State) : State :=
  match c.toNat with
  | 1 => s.encodeBody
  | 2 => s.buildBody
  | 3 => s.encodeBody.buildBody
  | _ => s.raiseIllegal

/-- What `BusWrite(waddr, wdata)` does: the "write" column of R35. -/
def busWrite (s : State) (waddr : Slot) (wdata : Word) : State :=
  match waddr.toNat with
  | 0 => { s with temp := wdata }
  | 1 => { s with digits := wdata }
  | 3 => performCommand wdata s
  | 4 => s.clearIllegal wdata
  | _ => s

end Sys2Proof.Machine
end

