-- ==== Sys2Proof/Machine/Assembler.lean ====
section
/-! DEFINITION. The assembler of R60 and R61: lines, pseudo-instructions, and the text of a line (log entry 10). -/

namespace Sys2Proof.Machine

open Sys2Proof

/-- A line of a ZDC program (R60, R61): the two transactions and the pseudo-instructions. -/
inductive Line where
  /-- `rd <slot>` -/
  | rd (slot : Slot)
  /-- `wr <slot>, <value>` -/
  | wr (slot : Slot) (value : Int)
  | encode
  | build
  | encbuild
  /-- `settemp <mdeg>` -/
  | settemp (mdeg : Int)
  /-- `show <mdeg>` -/
  | showTemp (mdeg : Int)
  /-- `setdig <b0>, <b1>, <b2>, <b3>` -/
  | setdig (b0 b1 b2 b3 : Byte)
  | clrerr
  | rdpkt
deriving DecidableEq, Repr

/-- A value is an integer in `[-2^31, 2^32 - 1]`, a negative one standing for its two's complement (R60). -/
def valueWord (v : Int) : Option Word := if -2 ^ 31 ≤ v ∧ v ≤ 2 ^ 32 - 1 then some (BitVec.ofInt 32 v) else none

/-- `rd <slot>` encodes as `{0, slot, 0}` (R60). -/
def asmRead (slot : Slot) : T39 := T39.ofFields false slot 0

/-- `wr <slot>, <value>` encodes as `{1, slot, value}` (R60). -/
def asmWrite (slot : Slot) (value : Word) : T39 := T39.ofFields true slot value

/-- The transaction words of a line, in order; none when its value is out of range (R60, R61). -/
def Line.assemble : Line → Option (List T39)
  | .rd slot => some [asmRead slot]
  | .wr slot value => (valueWord value).map fun v => [asmWrite slot v]
  | .encode => some [asmWrite 3 1]
  | .build => some [asmWrite 3 2]
  | .encbuild => some [asmWrite 3 3]
  | .settemp mdeg => (valueWord mdeg).map fun v => [asmWrite 0 v]
  | .showTemp mdeg => (valueWord mdeg).map fun v => [asmWrite 0 v, asmWrite 3 3]
  | .setdig b0 b1 b2 b3 => some [asmWrite 1 (b3 ++ b2 ++ b1 ++ b0)]
  | .clrerr => some [asmWrite 4 2]
  | .rdpkt => some ((List.range 17).map fun w => asmRead (BitVec.ofNat 6 (16 + w)))

/-! ### The text of a line -/

/-- The digit of a character in base 10 or 16. -/
def digitValue (base : Nat) (c : Char) : Option Nat :=
  let n := if '0' ≤ c ∧ c ≤ '9' then c.toNat - '0'.toNat
    else if 'a' ≤ c ∧ c ≤ 'f' then c.toNat - 'a'.toNat + 10
    else if 'A' ≤ c ∧ c ≤ 'F' then c.toNat - 'A'.toNat + 10
    else 16
  if n < base then some n else none

/-- A non-empty numeral in a base. -/
def parseNat (base : Nat) : List Char → Option Nat
  | [] => none
  | cs => cs.foldl (fun acc c => acc.bind fun n => (digitValue base c).map fun d => n * base + d) (some 0)

/-- A value: a decimal integer, or a `0x` literal of at most 32 bits (R60). -/
def parseValue : List Char → Option Int
  | '0' :: 'x' :: cs => (parseNat 16 cs).bind fun n => if n < 2 ^ 32 then some (n : Int) else none
  | '-' :: cs => (parseNat 10 cs).map fun n => -(n : Int)
  | cs => (parseNat 10 cs).map fun n => (n : Int)

/-- A digit byte of `setdig`, 0 to 255 (R61). -/
def parseByte (cs : List Char) : Option Byte :=
  (parseValue cs).bind fun v => if 0 ≤ v ∧ v ≤ 255 then some (BitVec.ofInt 8 v) else none

/-- A slot: its name, or a decimal number 0 to 63 (R60). -/
def parseSlot : List Char → Option Slot
  | ['T', 'E', 'M', 'P'] => some 0
  | ['D', 'I', 'G', 'I', 'T', 'S'] => some 1
  | ['S', 'C', 'A', 'L', 'E', 'D'] => some 2
  | ['C', 'M', 'D'] => some 3
  | ['S', 'T', 'A', 'T', 'U', 'S'] => some 4
  | 'P' :: 'K' :: 'T' :: cs =>
    if cs.head? = some '0' ∧ cs.length ≠ 1 then none
    else (parseNat 10 cs).bind fun n => if n ≤ 16 then some (BitVec.ofNat 6 (16 + n)) else none
  | cs => (parseNat 10 cs).bind fun n => if n < 64 then some (BitVec.ofNat 6 n) else none

/-- The tokens of a line: words, and each comma on its own; blanks separate, `;` starts a comment (R60). -/
def tokens (word : List Char) : List Char → List (List Char)
  | [] => if word = [] then [] else [word]
  | c :: cs =>
    if c = ';' then (if word = [] then [] else [word])
    else if c = ' ' ∨ c = '\t' then (if word = [] then tokens [] cs else word :: tokens [] cs)
    else if c = ',' then (if word = [] then [','] :: tokens [] cs else word :: [','] :: tokens [] cs)
    else tokens (word ++ [c]) cs

/-- The mnemonic of a line with no operand (R61). -/
def parseBare (m : List Char) : Option Line :=
  if m = "encode".toList then some .encode
  else if m = "build".toList then some .build
  else if m = "encbuild".toList then some .encbuild
  else if m = "clrerr".toList then some .clrerr
  else if m = "rdpkt".toList then some .rdpkt
  else none

/-- A line with one operand (R60, R61). -/
def parseUnary (m a : List Char) : Option Line :=
  if m = "rd".toList then (parseSlot a).map .rd
  else if m = "settemp".toList then (parseValue a).map .settemp
  else if m = "show".toList then (parseValue a).map .showTemp
  else none

/-- One line of text (R60, R61); none when it is no line of the assembler. -/
def parseLine (text : List Char) : Option Line :=
  match tokens [] text with
  | [m] => parseBare m
  | [m, a] => parseUnary m a
  | [m, a, [','], b] =>
    if m = "wr".toList then (parseSlot a).bind fun slot => (parseValue b).map fun v => .wr slot v else none
  | [m, a, [','], b, [','], c, [','], d] =>
    if m = "setdig".toList then
      (parseByte a).bind fun b0 => (parseByte b).bind fun b1 => (parseByte c).bind fun b2 =>
        (parseByte d).map fun b3 => .setdig b0 b1 b2 b3
    else none
  | _ => none

/-- The transaction words of one line of text; a line that is empty or only a comment has none (log entry 10). -/
def assembleText (text : String) : Option (List T39) :=
  if tokens [] text.toList = [] then some [] else (parseLine text.toList).bind Line.assemble

/-- The transaction words of a program, line after line (R60). -/
def assembleProgram : List String → Option (List T39)
  | [] => some []
  | line :: rest => (assembleText line).bind fun ws => (assembleProgram rest).map fun vs => ws ++ vs

end Sys2Proof.Machine
end

