-- ==== Sys2Proof/Machine/Port.lean ====
section
/-! DEFINITION. The host port clock edge by clock edge (R31, R32, R109, R119, R120, R126): a layer around the machine whose
every change of the architectural state is one `step`. Cycle counts are free values (log entry 6). -/

namespace Sys2Proof.Machine

open Sys2Proof

/-- The input signals of R31, as sampled at one rising edge of `clk`. -/
structure PinsIn where
  rstN : Bool
  reqValid : Bool
  reqWe : Bool
  reqWaddr : Slot
  reqWdata : Word
deriving DecidableEq, Repr

/-- The output signals of R31. `rsp` is none when `rsp_valid = 0`, and then carries no `rsp_rdata` (log entry 9). -/
structure PinsOut where
  reqReady : Bool
  rsp : Option Word
deriving DecidableEq, Repr

/-- Where the handshake of R32 stands. -/
inductive Phase where
  /-- `req_ready = 0` with no transaction outstanding, for `left` more cycles after this one (R120). -/
  | holdOff (left : Nat)
  /-- `req_ready = 1`. -/
  | ready
  /-- The transaction `x` is accepted and not yet performed, for `left` more cycles after this one (R32, R126). -/
  | busy (x : T39) (left : Nat)
  /-- The transaction is performed and its response is present in this cycle (R32). -/
  | respond
deriving DecidableEq, Repr

/-- The ZDC with its port. -/
structure Port where
  core : State
  phase : Phase
  /-- How many free waits have been drawn: the model's own counter (log entry 6). -/
  drawn : Nat
deriving DecidableEq, Repr

/-- The request on the pins as a transaction word (R51). -/
def PinsIn.word (i : PinsIn) : T39 := T39.ofFields i.reqWe i.reqWaddr i.reqWdata

/-- Not ready for `n` cycles, then ready (R120). -/
def Phase.afterWait : Nat → Phase
  | 0 => .ready
  | n + 1 => .holdOff n

/-- The outputs in a cycle: while `rst_n = 0`, `req_ready = 0` and `rsp_valid = 0` (R119; log entry 8); else as the
phase says (R32). -/
def Port.out (p : Port) (i : PinsIn) : PinsOut where
  reqReady := i.rstN && p.phase = .ready
  rsp := if i.rstN && p.phase = .respond then p.core.rsp else none

/-- A request is accepted at a rising edge at which `rst_n = 1`, `req_valid = 1` and `req_ready = 1` (R32). -/
def Port.accepts (p : Port) (i : PinsIn) : Bool := i.rstN && i.reqValid && (p.out i).reqReady

/-- The port after one step of the machine with the phase `ph` to follow. -/
def Port.after (p : Port) (ph : Phase) (o : Host.Outcome State Fault Refusal) : Host.Outcome Port Fault Refusal :=
  match o with
  | .next t => .next { p with core := t, phase := ph }
  | .fault r => .fault r
  | .refused r => .refused r

/-- The port with the phase `ph` to follow, one free wait drawn for it. -/
def Port.drawing (p : Port) (ph : Phase) : Port := { p with phase := ph, drawn := p.drawn + 1 }

/-- The edge with `rst_n = 0`: the state resets, an outstanding transaction is abandoned, and the port is not ready for
a free number of cycles (R109, R119, R120). -/
def Port.resetEdge (p : Port) : Host.Outcome Port Fault Refusal :=
  (p.drawing p.phase).after (Phase.afterWait (Config.holdOffCycles p.drawn)) (step p.core.withReset)

/-- The accepted transaction `x` with so many busy cycles still to come: with none, this edge performs it as one `step` and
its response is present in the next cycle; with some, the next cycle is one of them (R32, R34; log entry 7). -/
def Port.proceed (p : Port) (x : T39) : Nat → Host.Outcome Port Fault Refusal
  | 0 => p.after .respond (step (p.core.withRequest x))
  | left + 1 => .next { p with phase := .busy x left }

/-- One rising edge of `clk`. A request is accepted with a free number of busy cycles to come, 0 among them, so its response
may stand in the cycle right after this edge (R32, R128, item I11; log entry 6); only after its response may another be
accepted. With no request a ready port stays ready: R32 and R120 do not say so (log entry 18, DESIGN CHOICE). -/
def Port.edge (p : Port) (i : PinsIn) : Host.Outcome Port Fault Refusal :=
  if i.rstN = false then p.resetEdge
  else match p.phase with
    | .holdOff left => .next { p with phase := Phase.afterWait left }
    | .ready =>
      if i.reqValid then (p.drawing .ready).proceed i.word (Config.busyCycles p.drawn) else .next p
    | .busy x left => p.proceed x left
    | .respond => .next (p.drawing (Phase.afterWait (Config.holdOffCycles p.drawn)))

/-- A sequence of rising edges. -/
def Port.edges (p : Port) : List PinsIn → Host.Outcome Port Fault Refusal
  | [] => .next p
  | i :: rest =>
    match p.edge i with
    | .next q => q.edges rest
    | .fault r => .fault r
    | .refused r => .refused r

end Sys2Proof.Machine
end

