-- ==== Sys2Proof/Machine/Run.lean ====
section
/-! DEFINITION. A run of the ZDC and what the host observes of it (R129). -/

namespace Sys2Proof.Machine

open Sys2Proof

/-- What a run observes of one performed transaction: the read data of a read, nothing of a write (R129). -/
def readData (x : T39) (s : State) : List Word := if x.we then [] else s.rsp.toList

/-- A finite sequence of accepted transactions from a state: the state after the last, and the read data the reads
returned, in order (R129). -/
def runTransactions (s : State) : List T39 → Host.Outcome (State × List Word) Fault Refusal
  | [] => .next (s, [])
  | x :: rest =>
    match step (s.withRequest x) with
    | .next t =>
      match runTransactions t rest with
      | .next (u, seen) => .next (u, readData x t ++ seen)
      | .fault r => .fault r
      | .refused r => .refused r
    | .fault r => .fault r
    | .refused r => .refused r

/-- After the transactions `xs` from `s`, a read of `slot` returns `v` (R45). -/
def ReadsAfter (s : State) (xs : List T39) (slot : Slot) (v : Word) : Prop :=
  ∃ t seen, runTransactions s (xs ++ [T39.ofFields false slot 0]) = .next (t, seen ++ [v])

/-- The bytes a host forwards to the transport from the words of the 17 window reads: bits 7:0, 15:8, 23:16, 31:24 of
each word in order, and bits 7:0 of the last (R38, R87). -/
def forwardPacket (words : List Word) : List Byte :=
  (words.flatMap fun w => (digitBytes w).toList).take 65

end Sys2Proof.Machine
end

