-- ==== Sys2Proof/Safety.lean ====
section
/-! DEFINITION. What claims call a well-formed packet, a DigitCode, and the invariant of the reachable states (R26, R27,
R71, R88). -/

namespace Sys2Proof

open Sys2Proof.Machine

/-- A well-formed packet (R88). Its length is 65 by its type; the checksum is the unsigned sum of bytes 0 to 12
modulo 256. -/
def WellFormedPacket (p : Vector Byte 65) : Prop :=
  p[0] = 0x00 ∧ p[1] = 0x3A ∧ p[2] = 0xB5 ∧ p[3] = 0x01 ∧ p[8] = 0x01 ∧ p[9] = 0x01 ∧ p[10] = 0x01 ∧
    p[11] = 0x00 ∧ p[12] = 0x00 ∧
    p[13].toNat = (((List.range 13).map fun i => (p.toList.getD i 0).toNat).sum) % 256 ∧
    ∀ i : Fin 65, 14 ≤ i.val → p[i] = 0x00

/-- A DigitCode byte: 0x00 to 0x09, or the blank 0x20 (R7, R71). -/
def IsDigitCode (b : Byte) : Prop := b.toNat ≤ 9 ∨ b = 0x20

/-- The invariant of every reachable state: `SCALED[31:14] = 0` and `SCALED <= 9999` (R26); with `PKT_VALID = 0` every
packet byte is 0, and with `PKT_VALID = 1` the packet is well formed (R27). -/
structure Inv (s : State) : Prop where
  scaled_high : s.scaled.extractLsb' 14 18 = 0
  scaled_le : s.scaled.toNat ≤ 9999
  pkt_zero : s.pktValid = false → ∀ i : Fin 65, s.pkt[i] = 0x00
  pkt_wf : s.pktValid = true → WellFormedPacket s.pkt

/-- The states a run reaches: from the reset state with any host inputs to come, by steps (R129). -/
inductive Reachable : State → Prop where
  | reset (inputs : List HostInput) : Reachable { State.reset with host := inputs }
  | step {s t : State} : Reachable s → Machine.step s = .next t → Reachable t

end Sys2Proof
end

