-- ==== Sys2Proof/Certificates/Slice0/Obligations.lean ====
section
/-! DEFINITION. The statements for the provers. A state is written with its changed fields (`{ s with … }`), so every
equation is also a frame: each field not named is unchanged, every packet byte among them. -/

open Sys2Proof Sys2Proof.Machine

/-! ### Encoding -/

/-- Section 2.8 of 95_test_vectors.md and the match values of R56: one word at least for every row. -/
def Obligations.SpecWordsDecodeToTheirInstructions : Prop :=
  decode 0x4300000001 = .encode ∧ decode 0x4300000002 = .build ∧ decode 0x4300000003 = .encodeBuild ∧
    decode 0x4300000007 = .cmdRsvd 7 ∧ decode 0x40DEADBEEF = .wrTemp 0xDEADBEEF ∧ decode 0x4100000000 = .wrDigits 0 ∧
    decode 0x4400000001 = .wrStatus 1 ∧ decode 0x00DEADBEEF = .rdTemp 0xDEADBEEF ∧ decode 0x0100000000 = .rdDigits 0 ∧
    decode 0x0200000000 = .rdScaled 0 ∧ decode 0x0400000000 = .rdStatus 0 ∧ decode 0x1000000000 = .rdPkt 0 0 ∧
    decode 0x1F00000000 = .rdPkt 15 0 ∧ decode 0x2000000000 = .rdPkt16 0 ∧ decode 0x2100000000 = .razWi false 33 0 ∧
    decode 0x5000000000 = .razWi true 16 0 ∧ decode 0x0300000000 = .razWi false 3 0

/-- Decoding the word of a well-formed instruction gives that instruction back, every operand at every value. -/
def Obligations.DecodeOfEncodeIsIdentity : Prop :=
  ∀ i : Instr, i.wf = true → decode (encode i) = i

/-- Every transaction word is the word of exactly one well-formed instruction, the one it decodes to. -/
def Obligations.EveryWordEncodesExactlyOneInstruction : Prop :=
  ∀ x : T39, (decode x).wf = true ∧ encode (decode x) = x ∧ ∀ i : Instr, i.wf = true → encode i = x → i = decode x

/-- R58: the rows of R56, the priority 1 rows tested in any order, then CMD_RSVD, then RAZ_WI, select for every word
exactly the instruction it decodes to, and the step has exactly one outcome, a next state. -/
def Obligations.RowsInAnyOrderSelectTheDecodedInstruction : Prop :=
  ∀ x : T39,
    (∀ rows : List Row, rows.Perm priorityOneRows →
      ((rows ++ laterRows).find? (fun r => r.selects x)).map Row.mnemonic = some (decode x).mnemonic) ∧
    ∀ s : State, ∃ t, step (s.withRequest x) = .next t ∧ ∀ o, step (s.withRequest x) = o → o = .next t

/-- No word matches two different priority 1 rows. -/
def Obligations.PriorityOneRowsArePairwiseDisjoint : Prop :=
  ∀ r ∈ priorityOneRows, ∀ r' ∈ priorityOneRows, r ≠ r' → ∀ x : T39, ¬ (r.selects x = true ∧ r'.selects x = true)

/-- R55: the transaction map, field by field. -/
def Obligations.TransactionMapDecodesByFields : Prop :=
  decode (T39.ofFields true 3 1) = .encode ∧ decode (T39.ofFields true 3 2) = .build ∧
    decode (T39.ofFields true 3 3) = .encodeBuild ∧
    ∀ (slot : Slot) (d : Word),
      decode (T39.ofFields true 0 d) = .wrTemp d ∧ decode (T39.ofFields true 1 d) = .wrDigits d ∧
      decode (T39.ofFields true 4 d) = .wrStatus d ∧ decode (T39.ofFields false 0 d) = .rdTemp d ∧
      decode (T39.ofFields false 1 d) = .rdDigits d ∧ decode (T39.ofFields false 2 d) = .rdScaled d ∧
      decode (T39.ofFields false 4 d) = .rdStatus d ∧
      (16 ≤ slot.toNat ∧ slot.toNat ≤ 31 →
        decode (T39.ofFields false slot d) = .rdPkt (BitVec.ofNat 4 (slot.toNat - 16)) d) ∧
      decode (T39.ofFields false 32 d) = .rdPkt16 d ∧
      (d ≠ 1 → d ≠ 2 → d ≠ 3 → decode (T39.ofFields true 3 d) = .cmdRsvd d) ∧
      (slot = 3 ∨ (5 ≤ slot.toNat ∧ slot.toNat ≤ 15) ∨ 33 ≤ slot.toNat →
        decode (T39.ofFields false slot d) = .razWi false slot d) ∧
      (slot = 2 ∨ 5 ≤ slot.toNat → decode (T39.ofFields true slot d) = .razWi true slot d)

/-- The encoding of `rd` and `wr` lines (R60) and the expansions of the pseudo-instructions (R61). That a line whose value
is out of R60's range has no words is inferred from that range. -/
def Obligations.AssemblerLinesExpandToTheirTransactions : Prop :=
  (∀ slot : Slot, (Line.rd slot).assemble = some [T39.ofFields false slot 0]) ∧
    (∀ (slot : Slot) (v : Int), -2147483648 ≤ v → v ≤ 4294967295 →
      ∃ w : Word, (Line.wr slot v).assemble = some [T39.ofFields true slot w] ∧
        (w.toNat : Int) = if v < 0 then v + 4294967296 else v) ∧
    (∀ (slot : Slot) (v : Int), v < -2147483648 ∨ 4294967295 < v → (Line.wr slot v).assemble = none) ∧
    Line.encode.assemble = (Line.wr 3 1).assemble ∧ Line.build.assemble = (Line.wr 3 2).assemble ∧
    Line.encbuild.assemble = (Line.wr 3 3).assemble ∧ Line.clrerr.assemble = (Line.wr 4 2).assemble ∧
    (∀ v : Int, (Line.settemp v).assemble = (Line.wr 0 v).assemble) ∧
    (∀ v : Int, (Line.showTemp v).assemble =
      (Line.wr 0 v).assemble.bind fun ws => (Line.wr 3 3).assemble.map fun vs => ws ++ vs) ∧
    (∀ b0 b1 b2 b3 : Byte, (Line.setdig b0 b1 b2 b3).assemble =
      (Line.wr 1 (b3.toNat * 2 ^ 24 + b2.toNat * 2 ^ 16 + b1.toNat * 2 ^ 8 + b0.toNat : Nat)).assemble) ∧
    ∃ ws : List T39, Line.rdpkt.assemble = some ws ∧ ws.length = 17 ∧
      ∀ w < 17, ws[w]? = some (T39.ofFields false (BitVec.ofNat 6 (16 + w)) 0)

/-! ### The step, and reset -/

/-- A step runs the decoded instruction of the host's next request, the state otherwise as it stands; a table word placed
with `withFetchWord` is that request. -/
def Obligations.StepRunsTheDecodedRequest : Prop :=
  (∀ (s : State) (x : T39) (rest : List HostInput), s.host = .request x :: rest →
      step s = exec (decode x) { s with host := rest }) ∧
    (∀ (s : State) (x : T39), step (s.withRequest x) = exec (decode x) s) ∧
    ∀ (s : State) (nbits w : Nat) (i : Instr), decodeTableWord nbits w = some i →
      step (s.withFetchWord nbits w) = exec i s

/-- R25: what reset leaves. `CMD` has no field. -/
def Obligations.ResetLeavesEveryRegisterZero : Prop :=
  State.reset.temp = 0x00000000 ∧ State.reset.digits = 0x00000000 ∧ State.reset.scaled = 0x00000000 ∧
    State.reset.pktValid = false ∧ State.reset.illegal = false ∧ ∀ i : Fin 65, State.reset.pkt[i] = 0x00

/-- The reset input, at the level of transactions and on the pins (R119): every piece of state takes its reset value, no
request is accepted, `req_ready = 0` and `rsp_valid = 0`. The model's own: the outputs are 0 in the first cycle of
`rst_n = 0` too (log entry 8, DEDUCED), and reset is a step that leaves the host's later inputs (log entry 17, DESIGN
CHOICE). -/
def Obligations.ResetInputResetsEveryPieceOfState : Prop :=
  (∀ (s : State) (rest : List HostInput), s.host = .reset :: rest → step s = .next { State.reset with host := rest }) ∧
    ∀ (p : Port) (i : PinsIn), i.rstN = false →
      p.accepts i = false ∧ (p.out i).reqReady = false ∧ (p.out i).rsp = none ∧
        ∃ q, p.edge i = .next q ∧ q.core = { State.reset with host := p.core.host }

/-- With no input to come a step changes nothing (log entry 2: the model's reading of R11 and R129). -/
def Obligations.StepWithNoInputChangesNothing : Prop :=
  ∀ s : State, s.host = [] → step s = .next s

/-- No state and no input stops the machine (R106 says so of transactions). The model's own: the step with no input answers
too (log entry 2, DEDUCED), and a step takes exactly the next element of the list of inputs (log entry 1, DESIGN CHOICE). -/
def Obligations.EveryStepAnswersANextState : Prop :=
  ∀ s : State, ∃ t, step s = .next t ∧ t.host = s.host.tail

/-! ### The instructions: result, frame and completion in one equation, and the words that select each -/

/-- R94. -/
def Obligations.WrTempStoresTheWrittenWord : Prop :=
  (∀ (d : Word) (s : State), exec (.wrTemp d) s = .next { s with temp := d, rsp := some 0x00000000 }) ∧
    ∀ x : T39, x &&& 0x7F00000000 = 0x4000000000 → decode x = .wrTemp x.wdata

/-- R95. -/
def Obligations.WrDigitsStoresTheWrittenWord : Prop :=
  (∀ (d : Word) (s : State), exec (.wrDigits d) s = .next { s with digits := d, rsp := some 0x00000000 }) ∧
    ∀ x : T39, x &&& 0x7F00000000 = 0x4100000000 → decode x = .wrDigits x.wdata

/-- R96. -/
def Obligations.WrStatusClearsIllegalByBitOne : Prop :=
  (∀ (d : Word) (s : State),
      exec (.wrStatus d) s =
        .next { s with illegal := if d.getLsbD 1 = true then false else s.illegal, rsp := some 0x00000000 }) ∧
    ∀ x : T39, x &&& 0x7F00000000 = 0x4400000000 → decode x = .wrStatus x.wdata

/-- R97, R98. -/
def Obligations.RdTempAndRdDigitsAnswerTheRegister : Prop :=
  (∀ (g : Word) (s : State), exec (.rdTemp g) s = .next { s with rsp := some s.temp }) ∧
    (∀ (g : Word) (s : State), exec (.rdDigits g) s = .next { s with rsp := some s.digits }) ∧
    (∀ x : T39, x &&& 0x7F00000000 = 0x0000000000 → decode x = .rdTemp x.wdata) ∧
    ∀ x : T39, x &&& 0x7F00000000 = 0x0100000000 → decode x = .rdDigits x.wdata

/-- The answer is the register wherever the register's bits 31:14 are 0 (R99), as they are in every reachable state (R26).
The model's own (log entry 13, DEDUCED from R16): in a state no run reaches, where they are not, they still read 0. -/
def Obligations.RdScaledAnswersTheScaledValue : Prop :=
  (∀ (g : Word) (s : State), ∃ v : Word, exec (.rdScaled g) s = .next { s with rsp := some v } ∧
      v.toNat = s.scaled.toNat % 2 ^ 14 ∧ (s.scaled.extractLsb' 14 18 = 0 → v = s.scaled)) ∧
    ∀ x : T39, x &&& 0x7F00000000 = 0x0200000000 → decode x = .rdScaled x.wdata

/-- R100: bit 1 `ILLEGAL`, bit 0 `PKT_VALID`, bits 31:2 zero. -/
def Obligations.RdStatusAnswersTheTwoFlags : Prop :=
  (∀ (g : Word) (s : State), ∃ v : Word, exec (.rdStatus g) s = .next { s with rsp := some v } ∧
      v.getLsbD 0 = s.pktValid ∧ v.getLsbD 1 = s.illegal ∧ ∀ n, 2 ≤ n → v.getLsbD n = false) ∧
    ∀ x : T39, x &&& 0x7F00000000 = 0x0400000000 → decode x = .rdStatus x.wdata

/-- R101: bits 8j+7:8j of the answer are packet byte 4w + j, and `w = uint(waddr) - 16`; in every state that meets the
invariant all words read 0 before the first BUILD, and words 4 to 15 always. -/
def Obligations.RdPktAnswersFourPacketBytes : Prop :=
  (∀ (w : BitVec 4) (g : Word) (s : State), ∃ v : Word, exec (.rdPkt w g) s = .next { s with rsp := some v } ∧
      (∀ j < 4, some (v.extractLsb' (8 * j) 8) = s.pkt[4 * w.toNat + j]?) ∧
      (Inv s → s.pktValid = false ∨ 4 ≤ w.toNat → v = 0x00000000)) ∧
    ∀ x : T39, x &&& 0x7000000000 = 0x1000000000 →
      16 ≤ x.waddr.toNat ∧ decode x = .rdPkt (BitVec.ofNat 4 (x.waddr.toNat - 16)) x.wdata

/-- R102: byte 64, zero-extended; it is 0 in every state that meets the invariant. -/
def Obligations.RdPkt16AnswersTheLastPacketByte : Prop :=
  (∀ (g : Word) (s : State), ∃ v : Word, exec (.rdPkt16 g) s = .next { s with rsp := some v } ∧
      v.toNat = s.pkt[64].toNat ∧ (Inv s → v = 0x00000000)) ∧
    ∀ x : T39, x &&& 0x7F00000000 = 0x2000000000 → decode x = .rdPkt16 x.wdata

/-- R104: nothing changes and 0 is answered, for a read and for a write; and the words that match no row of priority 1 or
2 are the reads of slots 3, 5 to 15, 33 to 63 and the writes to slots 2, 5 to 63. -/
def Obligations.RazWiAnswersZeroAndChangesNothing : Prop :=
  (∀ (we : Bool) (slot : Slot) (d : Word) (s : State),
      exec (.razWi we slot d) s = .next { s with rsp := some 0x00000000 }) ∧
    ∀ x : T39, (∀ r ∈ opcodeTable, r.priority ≤ 2 → r.selects x = false) ↔
      decode x = .razWi x.we x.waddr x.wdata ∧
        ((x.we = false ∧ (x.waddr = 3 ∨ (5 ≤ x.waddr.toNat ∧ x.waddr.toNat ≤ 15) ∨ 33 ≤ x.waddr.toNat)) ∨
          (x.we = true ∧ (x.waddr = 2 ∨ 5 ≤ x.waddr.toNat)))

/-- R105. -/
def Obligations.CmdRsvdOnlySetsIllegal : Prop :=
  (∀ (c : Word) (s : State), exec (.cmdRsvd c) s = .next { s with illegal := true, rsp := some 0x00000000 }) ∧
    ∀ x : T39, x &&& 0x7F00000000 = 0x4300000000 → x.wdata ≠ 1 → x.wdata ≠ 2 → x.wdata ≠ 3 →
      decode x = .cmdRsvd x.wdata

/-- R72, the result in plain arithmetic: `S` by R65, the codes by R68 and R70, packed with `d[0]` lowest. -/
def Obligations.EncodeWritesScaledAndDigits : Prop :=
  decode 0x4300000001 = .encode ∧
    ∀ s : State, ∃ S d0 d1 d2 d3 : Nat,
      (S : Int) = min (max (s.temp.toInt / 100) 0) 9999 ∧
      d0 = (if S < 1000 then 0x20 else S / 1000 % 10) ∧ d1 = (if S < 100 then 0x20 else S / 100 % 10) ∧
      d2 = (if S < 10 then 0x20 else S / 10 % 10) ∧ d3 = S % 10 ∧
      exec .encode s = .next { s with
        scaled := BitVec.ofNat 32 S
        digits := BitVec.ofNat 32 (d0 + 2 ^ 8 * d1 + 2 ^ 16 * d2 + 2 ^ 24 * d3)
        rsp := some 0x00000000 }

/-- R84, the packet written out; the checksum as the unsigned sum of bytes 0 to 12 modulo 256. -/
def Obligations.BuildWritesTheWholePacket : Prop :=
  decode 0x4300000002 = .build ∧
    ∀ s : State, ∃ (P : Vector Byte 65) (chk : Byte),
      P.toList = [0x00, 0x3A, 0xB5, 0x01, s.digits.extractLsb' 0 8, s.digits.extractLsb' 8 8, s.digits.extractLsb' 16 8,
        s.digits.extractLsb' 24 8, 0x01, 0x01, 0x01, 0x00, 0x00, chk] ++ List.replicate 51 (0x00 : Byte) ∧
      chk.toNat = ((P.toList.take 13).map BitVec.toNat).sum % 256 ∧
      exec .build s = .next { s with pkt := P, pktValid := true, rsp := some 0x00000000 }

/-- R86: ENCODE_BUILD is ENCODE followed by BUILD in one step, and the `DIGITS` before it has no effect. -/
def Obligations.EncodeBuildIsEncodeThenBuild : Prop :=
  decode 0x4300000003 = .encodeBuild ∧
    ∀ s : State, ∃ t u, exec .encode s = .next t ∧ exec .build t = .next u ∧ exec .encodeBuild s = .next u ∧
      u.temp = s.temp ∧ u.illegal = s.illegal ∧ u.pktValid = true ∧ u.rsp = some 0x00000000 ∧ u.host = s.host ∧
      u.scaled = t.scaled ∧ u.digits = t.digits ∧ ∀ d : Word, exec .encodeBuild { s with digits := d } = .next u

/-! ### The digit encoder -/

/-- R66: the scaler is the source's three steps computed exactly over the rationals, `trunc` rounding toward zero. -/
def Obligations.ScaleIsTruncatedClampOverTheRationals : Prop :=
  ∀ temp : Word, ∃ x : ℚ, x = min (max (10 * ((temp.toInt : ℚ) / 1000)) 0) 9999 ∧
    (scale temp : ℤ) = if 0 ≤ x then ⌊x⌋ else ⌈x⌉

/-- R67: the saturation thresholds. -/
def Obligations.ScaleSaturatesAtItsThresholds : Prop :=
  ∀ temp : Word,
    (scale temp = 0 ↔ temp.toInt ≤ 99) ∧ (scale temp = 9999 ↔ 999900 ≤ temp.toInt) ∧
    (100 ≤ temp.toInt → temp.toInt ≤ 999899 →
      (scale temp : Int) = temp.toInt / 100 ∧ 1 ≤ scale temp ∧ scale temp ≤ 9998) ∧
    scale temp < 2 ^ 14

/-- R68: the four digits, each in 0..9, and they rebuild `S`; the `mod 10` on the first never changes it. -/
def Obligations.DigitsRebuildTheScaledValue : Prop :=
  ∀ S ≤ 9999,
    (digitsOf S)[0].toNat = S / 1000 % 10 ∧ (digitsOf S)[1].toNat = S / 100 % 10 ∧ (digitsOf S)[2].toNat = S / 10 % 10 ∧
    (digitsOf S)[3].toNat = S % 10 ∧ (∀ k : Fin 4, (digitsOf S)[k].toNat ≤ 9) ∧
    S = 1000 * (digitsOf S)[0].toNat + 100 * (digitsOf S)[1].toNat + 10 * (digitsOf S)[2].toNat + (digitsOf S)[3].toNat ∧
    (digitsOf S)[0].toNat = S / 1000

/-- R70: the blanking loop of R69 blanks 3, 2, 1 or 0 leading positions by the range of `S`, and keeps the others. -/
def Obligations.BlankingLoopBlanksByRange : Prop :=
  ∀ S ≤ 9999, ∀ n, n = (if S ≤ 9 then 3 else if S ≤ 99 then 2 else if S ≤ 999 then 1 else 0) →
    ∀ k : Fin 4, (display S)[k] = if k.val < n then 0x20 else (digitsOf S)[k]

/-- R71: the output domain, and 10000 distinct displays, one per `S`. -/
def Obligations.DisplaysAreDigitCodesAndInjective : Prop :=
  (∀ S ≤ 9999,
    (∀ k : Fin 4, IsDigitCode (display S)[k]) ∧ (display S)[3] ≠ 0x20 ∧
    (∀ j k : Fin 4, j < k → (display S)[k] = 0x20 → (display S)[j] = 0x20) ∧
    ∀ k : Fin 4, k.val ≤ 2 → (display S)[k] = 0x00 →
      ∃ j < k, 1 ≤ (display S)[j].toNat ∧ (display S)[j].toNat ≤ 9) ∧
  (∀ S ≤ 9999, ∀ S' ≤ 9999, display S = display S' → S = S') ∧
  ((Finset.range 10000).image display).card = 10000

/-! ### The packet codec -/

/-- R74 with R81: every byte of the frame, and the checksum as the unsigned sum of bytes 0 to 12 modulo 256. -/
def Obligations.PacketHasTheFrameLayout : Prop :=
  ∀ d : Vector Byte 4,
    (packet d)[0] = 0x00 ∧ (packet d)[1] = 0x3A ∧ (packet d)[2] = 0xB5 ∧ (packet d)[3] = 0x01 ∧
    (∀ k : Fin 4, (packet d)[4 + k.val] = d[k]) ∧
    (packet d)[8] = 0x01 ∧ (packet d)[9] = 0x01 ∧ (packet d)[10] = 0x01 ∧ (packet d)[11] = 0x00 ∧ (packet d)[12] = 0x00 ∧
    (packet d)[13].toNat = (((packet d).toList.take 13).map BitVec.toNat).sum % 256 ∧
    ∀ i : Fin 65, 14 ≤ i.val → (packet d)[i] = 0x00

/-- R82: the accumulator is the sum modulo 256, in any order, and its result is byte 13. -/
def Obligations.ChecksumAccumulatorIsOrderFree : Prop :=
  (∀ l : List Byte, (accumulate l).toNat = (l.map BitVec.toNat).sum % 256) ∧
    (∀ l l' : List Byte, l.Perm l' → accumulate l = accumulate l') ∧
    ∀ (d : Vector Byte 4) (l : List Byte), l.Perm ((packet d).toList.take 13) → (packet d)[13] = accumulate l

/-- R83: the closed form of the checksum, and the bound of the digit sum for DigitCodes. -/
def Obligations.ChecksumHasItsClosedForm : Prop :=
  ∀ d : Vector Byte 4,
    (packet d)[13].toNat = (0xF3 + d[0].toNat + d[1].toNat + d[2].toNat + d[3].toNat) % 256 ∧
    ((∀ k : Fin 4, IsDigitCode d[k]) → d[0].toNat + d[1].toNat + d[2].toNat + d[3].toNat ≤ 128)

/-- R88: whatever `DIGITS` holds, BUILD and ENCODE_BUILD leave a well-formed packet, and ENCODE_BUILD's digit bytes have
the properties of R71. -/
def Obligations.BuiltPacketsAreWellFormed : Prop :=
  ∀ s : State,
    (∃ t, exec .build s = .next t ∧ WellFormedPacket t.pkt) ∧
    ∃ t, exec .encodeBuild s = .next t ∧ WellFormedPacket t.pkt ∧
      (∀ k : Fin 4, IsDigitCode t.pkt[4 + k.val]) ∧ t.pkt[7] ≠ 0x20 ∧
      (∀ j k : Fin 4, j < k → t.pkt[4 + k.val] = 0x20 → t.pkt[4 + j.val] = 0x20) ∧
      ∀ k : Fin 4, k.val ≤ 2 → t.pkt[4 + k.val] = 0x00 →
        ∃ j < k, 1 ≤ t.pkt[4 + j.val].toNat ∧ t.pkt[4 + j.val].toNat ≤ 9

/-- R89: the same digits give the same 65 bytes, and a BUILD directly after a BUILD leaves the state unchanged. -/
def Obligations.BuildIsIdempotent : Prop :=
  (∀ s s' : State, s.digits = s'.digits → ∃ t t', exec .build s = .next t ∧ exec .build s' = .next t' ∧ t.pkt = t'.pkt) ∧
    ∀ s : State, ∃ t, exec .build s = .next t ∧ exec .build t = .next t

/-! ### The register space -/

/-- R36: packet byte `4w + j` is in bits 8j+7:8j of slot 16 + w, and the rest of slot 32 is zero; so every one of the 65
bytes appears in exactly one place. -/
def Obligations.WindowShowsEachPacketByteOnce : Prop :=
  ∀ (s : State) (slot : Slot), 16 ≤ slot.toNat → slot.toNat ≤ 32 →
    ∃ v : Word, step (s.withRequest (T39.ofFields false slot 0)) = .next { s with rsp := some v } ∧
      ∀ j < 4, v.extractLsb' (8 * j) 8 = s.pkt[4 * (slot.toNat - 16) + j]?.getD 0x00

/-- The two transactions do what the address map of R35 says at each of the 64 slots. -/
def Obligations.TransactionsFollowTheAddressMap : Prop :=
  ∀ (s : State) (slot : Slot) (d : Word),
    step (s.withRequest (T39.ofFields false slot d)) = .next { s with rsp := some (busRead s slot) } ∧
    step (s.withRequest (T39.ofFields true slot d)) = .next { busWrite s slot d with rsp := some 0x00000000 }

/-- R92: every write answers 0, and a read leaves the whole state unchanged but for its response. -/
def Obligations.WritesAnswerZeroAndReadsChangeNothing : Prop :=
  ∀ (x : T39) (s : State), ∃ t v, step (s.withRequest x) = .next t ∧ t.rsp = some v ∧
    (x.we = true → v = 0x00000000) ∧ (x.we = false → t = { s with rsp := some v })

/-- Every write is idempotent: the same write again leaves the same state, whatever was written. -/
def Obligations.EveryWriteIsIdempotent : Prop :=
  ∀ (x : T39) (s : State), x.we = true → ∃ t, step (s.withRequest x) = .next t ∧ step (t.withRequest x) = .next t

/-- `DIGITS` is packed little-endian: digit byte k is bits 8k+7:8k, and packing and unpacking are inverse, both ways. -/
def Obligations.DigitsPackAndUnpack : Prop :=
  (∀ (w : Word) (k : Fin 4), (digitBytes w)[k] = w.extractLsb' (8 * k.val) 8) ∧
  (∀ w : Word, packBytes (digitBytes w) = w) ∧ ∀ b : Vector Byte 4, digitBytes (packBytes b) = b

/-! ### Whole-machine rules -/

/-- A change of `TEMP`, `DIGITS`, `SCALED` or a packet byte in one step is the work of reset or of the instructions that
write it. -/
def Obligations.DataRegistersChangeOnlyByTheirWriters : Prop :=
  ∀ s t : State, step s = .next t → (∃ rest, s.host = .reset :: rest) ∨
    ((t.temp ≠ s.temp → ∃ x rest d, s.host = .request x :: rest ∧ decode x = .wrTemp d ∧ t.temp = d) ∧
    (t.digits ≠ s.digits → ∃ x rest, s.host = .request x :: rest ∧
      (decode x = .encode ∨ decode x = .encodeBuild ∨ decode x = .wrDigits t.digits)) ∧
    (t.scaled ≠ s.scaled → ∃ x rest, s.host = .request x :: rest ∧ (decode x = .encode ∨ decode x = .encodeBuild)) ∧
    ((∃ i : Fin 65, t.pkt[i] ≠ s.pkt[i]) → ∃ x rest, s.host = .request x :: rest ∧
      (decode x = .build ∨ decode x = .encodeBuild)))

/-- R19: `PKT_VALID` is set to 1 by BUILD and ENCODE_BUILD and by nothing else, and cleared only by reset. -/
def Obligations.PktValidChangesOnlyByBuildAndReset : Prop :=
  (∀ s : State, ∃ t u, exec .build s = .next t ∧ t.pktValid = true ∧ exec .encodeBuild s = .next u ∧ u.pktValid = true) ∧
    ∀ s t : State, step s = .next t →
      (s.pktValid = false → t.pktValid = true → ∃ x rest, s.host = .request x :: rest ∧
        (decode x = .build ∨ decode x = .encodeBuild)) ∧
      (s.pktValid = true → t.pktValid = false → ∃ rest, s.host = .reset :: rest)

/-- R20: `ILLEGAL` is set by CMD_RSVD and by nothing else, cleared by reset and by a STATUS write with bit 1 set, and is
sticky. -/
def Obligations.IllegalChangesOnlyByRsvdClearAndReset : Prop :=
  (∀ (c : Word) (s : State), ∃ t, exec (.cmdRsvd c) s = .next t ∧ t.illegal = true) ∧
    (∀ (d : Word) (s : State), d.getLsbD 1 = true → ∃ t, exec (.wrStatus d) s = .next t ∧ t.illegal = false) ∧
    (∀ (s : State) (rest : List HostInput), s.host = .reset :: rest → ∃ t, step s = .next t ∧ t.illegal = false) ∧
    ∀ s t : State, step s = .next t →
      (s.illegal = false → t.illegal = true → ∃ x rest c, s.host = .request x :: rest ∧ decode x = .cmdRsvd c) ∧
      (s.illegal = true → t.illegal = false → (∃ rest, s.host = .reset :: rest) ∨
        ∃ x rest d, s.host = .request x :: rest ∧ decode x = .wrStatus d ∧ d.getLsbD 1 = true)

/-- R28: a command's results are a function of its operand register alone: two states that agree on it get the same
results, whatever else they hold. -/
def Obligations.CommandResultsDependOnlyOnTheirOperand : Prop :=
  (∀ s s' : State, s.temp = s'.temp → ∃ t t', exec .encode s = .next t ∧ exec .encode s' = .next t' ∧
      t.scaled = t'.scaled ∧ t.digits = t'.digits) ∧
    (∀ s s' : State, s.digits = s'.digits → ∃ t t', exec .build s = .next t ∧ exec .build s' = .next t' ∧
      t.pkt = t'.pkt ∧ t.pktValid = t'.pktValid) ∧
    ∀ s s' : State, s.temp = s'.temp → ∃ t t', exec .encodeBuild s = .next t ∧ exec .encodeBuild s' = .next t' ∧
      t.scaled = t'.scaled ∧ t.digits = t'.digits ∧ t.pkt = t'.pkt ∧ t.pktValid = t'.pktValid

/-! ### The invariant -/

/-- The reset state meets the invariant of R26 and R27, whatever the host does next. -/
def Obligations.ResetMeetsTheInvariant : Prop :=
  ∀ inputs : List HostInput, Inv { State.reset with host := inputs }

/-- Every step keeps the invariant. -/
def Obligations.EveryStepKeepsTheInvariant : Prop :=
  ∀ s t : State, Inv s → step s = .next t → Inv t

/-- R26, R27: every reachable state meets the invariant, and `PKT[1] = 0x3A` holds exactly when `PKT_VALID = 1`. -/
def Obligations.ReachableStatesMeetTheInvariant : Prop :=
  ∀ s : State, Reachable s →
    s.scaled.extractLsb' 14 18 = 0 ∧ s.scaled.toNat ≤ 9999 ∧
    (s.pktValid = false → ∀ i : Fin 65, s.pkt[i] = 0x00) ∧ (s.pktValid = true → WellFormedPacket s.pkt) ∧
    (s.pkt[1] = 0x3A ↔ s.pktValid = true)

/-! ### Runs -/

/-- R45, R46: a read returns what the transactions before it left in its slot, whatever else came between, register by
register: the last value written, or the results of the last command that wrote it. -/
def Obligations.ReadsReturnTheLastValueWritten : Prop :=
  ∀ (s : State) (xs : List T39),
    (∀ d : Word, (∀ x ∈ xs, ∀ e, decode x ≠ .wrTemp e) → ReadsAfter s (T39.ofFields true 0 d :: xs) 0 d) ∧
    ((∀ x ∈ xs, (∀ e, decode x ≠ .wrDigits e) ∧ decode x ≠ .encode ∧ decode x ≠ .encodeBuild) →
      (∀ d : Word, ReadsAfter s (T39.ofFields true 1 d :: xs) 1 d) ∧
      ∀ c : Word, c = 1 ∨ c = 3 → ∃ t, step (s.withRequest (T39.ofFields true 3 c)) = .next t ∧
        ReadsAfter s (T39.ofFields true 3 c :: xs) 1 t.digits) ∧
    (∀ c : Word, c = 1 ∨ c = 3 → (∀ x ∈ xs, decode x ≠ .encode ∧ decode x ≠ .encodeBuild) →
      ∃ v, ReadsAfter s (T39.ofFields true 3 c :: xs) 2 v ∧ (v.toNat : Int) = min (max (s.temp.toInt / 100) 0) 9999) ∧
    (∀ c : Word, c = 2 ∨ c = 3 →
      (∃ v, ReadsAfter s (T39.ofFields true 3 c :: xs) 4 v ∧ v.getLsbD 0 = true) ∧
      ((∀ x ∈ xs, decode x ≠ .build ∧ decode x ≠ .encodeBuild) →
        ∃ t, step (s.withRequest (T39.ofFields true 3 c)) = .next t ∧
          ∀ slot : Slot, 16 ≤ slot.toNat → slot.toNat ≤ 32 → ∃ v, ReadsAfter s (T39.ofFields true 3 c :: xs) slot v ∧
            ∀ j < 4, v.extractLsb' (8 * j) 8 = t.pkt[4 * (slot.toNat - 16) + j]?.getD 0x00)) ∧
    (∀ c : Word, c ≠ 1 → c ≠ 2 → c ≠ 3 → (∀ x ∈ xs, ∀ e, decode x = .wrStatus e → e.getLsbD 1 = false) →
      ∃ v, ReadsAfter s (T39.ofFields true 3 c :: xs) 4 v ∧ v.getLsbD 1 = true) ∧
    ∀ d : Word, d.getLsbD 1 = true → (∀ x ∈ xs, ∀ c, decode x ≠ .cmdRsvd c) →
      ∃ v, ReadsAfter s (T39.ofFields true 4 d :: xs) 4 v ∧ v.getLsbD 1 = false

/-- Every finite sequence of transactions runs to its end, with one read datum per read, and takes no other input. -/
def Obligations.RunsNeverStopThemselves : Prop :=
  ∀ (s : State) (xs : List T39), ∃ t seen, runTransactions s xs = .next (t, seen) ∧
    seen.length = (xs.filter fun x => x.we = false).length ∧ t.host = s.host

/-- The 17 reads of `rdpkt` return the packet: the host forwards its 65 bytes in order, and the reads change nothing but
the last response. -/
def Obligations.RdpktForwardsTheWholePacket : Prop :=
  ∀ s : State, ∃ ws t words, Line.rdpkt.assemble = some ws ∧ runTransactions s ws = .next (t, words) ∧
    words.length = 17 ∧ forwardPacket words = s.pkt.toList ∧ t = { s with rsp := t.rsp }

/-- Producing a packet from any state, by ENCODE_BUILD or by ENCODE and BUILD: the 17 reads forward the well-formed packet
of the display of the temperature written. -/
def Obligations.ProducingAPacketForwardsTheEncodedTemperature : Prop :=
  ∀ (s : State) (temp : Word), ∃ reads, Line.rdpkt.assemble = some reads ∧
    ∀ cmds, cmds = [T39.ofFields true 3 3] ∨ cmds = [T39.ofFields true 3 1, T39.ofFields true 3 2] →
      ∃ t words, runTransactions s (T39.ofFields true 0 temp :: cmds ++ reads) = .next (t, words) ∧
        forwardPacket words = t.pkt.toList ∧ WellFormedPacket t.pkt ∧ t.temp = temp ∧
        (t.scaled.toNat : Int) = min (max (temp.toInt / 100) 0) 9999 ∧
        ∀ k : Fin 4, t.pkt[4 + k.val] = (display t.scaled.toNat)[k]

/-- R90: the source's end-to-end scenario. -/
def Obligations.EndToEndScenarioBuildsItsPacket : Prop :=
  ∀ s : State, ∃ t, runTransactions s [0x4000005BA0, 0x4300000003] = .next (t, []) ∧ t.scaled = 234 ∧
    (t.pkt.toList.drop 4).take 4 = [0x20, 0x02, 0x03, 0x04] ∧ t.pkt[13] = 0x1C

/-! ### The clocked port (the free values `Config.busyCycles` and `Config.holdOffCycles` are open: each statement holds for
every value of them; log entries 6 and 7) -/

/-- R34 on the pins: one clock edge changes the architectural state only as one whole step of the machine: the reset
input, or the transaction whose last busy cycle it ends, or the request it accepts with no busy cycle to come; every other
edge leaves it as it is. At which edge the step falls is the model's (log entry 7, DESIGN CHOICE). -/
def Obligations.ClockEdgeIsOneWholeStepOrNone : Prop :=
  ∀ (p : Port) (i : PinsIn), ∃ q, p.edge i = .next q ∧
    (i.rstN = false → step p.core.withReset = .next q.core) ∧
    (i.rstN = true → ∀ x, p.phase = .busy x 0 → step (p.core.withRequest x) = .next q.core ∧ q.phase = .respond) ∧
    (p.accepts i = true → if Config.busyCycles p.drawn = 0 then
        step (p.core.withRequest i.word) = .next q.core ∧ q.phase = .respond
      else q.core = p.core ∧ q.phase = .busy i.word (Config.busyCycles p.drawn - 1)) ∧
    (i.rstN = true → p.accepts i = false → (∀ x, p.phase ≠ .busy x 0) → q.core = p.core)

/-- The handshake of R32: an accepted request is not answered, and nothing else is accepted, until the transaction has
been performed as one step; then its response is present for one cycle, the very next one where no busy cycle is drawn
(log entry 6). What the host drives meanwhile has no effect. That the state stays as it was until the last edge before the
response is the model's (log entry 7, DESIGN CHOICE). -/
def Obligations.HandshakePerformsTheAcceptedTransaction : Prop :=
  ∀ (p : Port) (i : PinsIn) (rest : List PinsIn), p.accepts i = true → (∀ j ∈ rest, j.rstN = true) →
    rest.length = Config.busyCycles p.drawn →
      (∀ n < rest.length, ∃ q, p.edges (i :: rest.take n) = .next q ∧ q.core = p.core ∧
        ∀ o : PinsIn, (q.out o).reqReady = false ∧ (q.out o).rsp = none) ∧
      ∃ q t, p.edges (i :: rest) = .next q ∧ step (p.core.withRequest i.word) = .next t ∧ q.core = t ∧
        ∀ o : PinsIn, o.rstN = true →
          (q.out o).reqReady = false ∧ (q.out o).rsp = t.rsp ∧
          ∃ r, q.edge o = .next r ∧ r.core = t ∧ ∀ o' : PinsIn, (r.out o').rsp = none

/-- Reset wins over a request at the same edge and abandons an outstanding transaction (R109): no response of it is given,
and the state is the reset state whatever it would have done. That no response is present in the very cycle in which
`rst_n` is low, the first one included, is the model's (log entry 8, DEDUCED from R119). -/
def Obligations.ResetAbandonsAnOutstandingTransaction : Prop :=
  ∀ (p : Port) (i : PinsIn), i.rstN = false →
    p.accepts i = false ∧ (p.out i).rsp = none ∧
    ∃ q, p.edge i = .next q ∧ q.core = { State.reset with host := p.core.host } ∧
      (q.phase = .ready ∨ ∃ n, q.phase = .holdOff n) ∧ ∀ o : PinsIn, (q.out o).rsp = none

/-- The port comes back to ready, after reset has been released and after a response, in finitely many cycles in which
the host may drive anything but reset. -/
def Obligations.PortBecomesReadyAgain : Prop :=
  ∀ (p : Port) (i : PinsIn) (rest : List PinsIn), (∀ j ∈ rest, j.rstN = true) →
    rest.length = Config.holdOffCycles p.drawn →
      (i.rstN = false → ∃ q, p.edges (i :: rest) = .next q ∧ q.phase = .ready ∧
        q.core = { State.reset with host := p.core.host } ∧ ∀ o : PinsIn, o.rstN = true → (q.out o).reqReady = true) ∧
      (i.rstN = true → p.phase = .respond → ∃ q, p.edges (i :: rest) = .next q ∧ q.phase = .ready ∧
        q.core = p.core ∧ ∀ o : PinsIn, o.rstN = true → (q.out o).reqReady = true)
end

