-- ==== Sys2Proof/Laws/Decode.lean ====
section
/-! SUPPORT. What the fields of a transaction word are, and how a mask reads them. -/

namespace Sys2Proof

theorem T39.getLsbD_ofFields (w : Bool) (a : Slot) (d : Word) (i : Nat) :
    (T39.ofFields w a d).getLsbD i =
      if i < 32 then d.getLsbD i else if i - 32 < 6 then a.getLsbD (i - 32) else decide (i - 32 - 6 = 0) && w := by
  simp only [T39.ofFields, BitVec.getLsbD_append, BitVec.getLsbD_ofBool]

theorem T39.we_ofFields (w : Bool) (a : Slot) (d : Word) : (T39.ofFields w a d).we = w := by
  simp only [T39.we, T39.getLsbD_ofFields]
  rfl

theorem T39.waddr_ofFields (w : Bool) (a : Slot) (d : Word) : (T39.ofFields w a d).waddr = a := by
  apply BitVec.eq_of_getLsbD_eq
  intro i hi
  simp only [T39.waddr, BitVec.getLsbD_extractLsb', T39.getLsbD_ofFields]
  simp [hi]

theorem T39.wdata_ofFields (w : Bool) (a : Slot) (d : Word) : (T39.ofFields w a d).wdata = d := by
  apply BitVec.eq_of_getLsbD_eq
  intro i hi
  simp only [T39.wdata, BitVec.getLsbD_extractLsb', T39.getLsbD_ofFields]
  simp [hi]

theorem T39.ofFields_fields (x : T39) : T39.ofFields x.we x.waddr x.wdata = x := by
  apply BitVec.eq_of_getLsbD_eq
  intro i hi
  simp only [T39.ofFields, T39.we, T39.waddr, T39.wdata, BitVec.getLsbD_append, BitVec.getLsbD_extractLsb',
    BitVec.getLsbD_ofBool]
  split
  · simp [*]
  · split
    · rename_i h h'
      simp [h', show 32 + (i - 32) = i by omega]
    · rename_i h h'
      simp [show i = 38 by omega]

/-- A transaction word is its three fields. -/
theorem T39.forall_fields {P : T39 → Prop} : (∀ x, P x) ↔ ∀ w a d, P (T39.ofFields w a d) :=
  ⟨fun h _ _ _ => h _, fun h x => x.ofFields_fields ▸ h _ _ _⟩

theorem decode_ofFields (w : Bool) (a : Slot) (d : Word) :
    decode (T39.ofFields w a d) = if w then decodeWrite a d else decodeRead a d := by
  simp only [decode, T39.we_ofFields, T39.waddr_ofFields, T39.wdata_ofFields]

/-- A mask and a pattern given field by field select a word field by field. -/
theorem T39.and_eq_iff (w mw pw : Bool) (a ma pa : Slot) (d md pd : Word) :
    T39.ofFields w a d &&& T39.ofFields mw ma md = T39.ofFields pw pa pd ↔
      (w && mw) = pw ∧ a &&& ma = pa ∧ d &&& md = pd := by
  have h : T39.ofFields w a d &&& T39.ofFields mw ma md = T39.ofFields (w && mw) (a &&& ma) (d &&& md) := by
    apply BitVec.eq_of_getLsbD_eq
    intro i hi
    simp only [T39.ofFields, BitVec.getLsbD_and, BitVec.getLsbD_append, BitVec.getLsbD_ofBool]
    split
    · rfl
    · split
      · rfl
      · cases w <;> cases mw <;> simp
  rw [h]
  constructor
  · intro e
    have e1 := congrArg T39.we e
    have e2 := congrArg T39.waddr e
    have e3 := congrArg T39.wdata e
    simp only [T39.we_ofFields, T39.waddr_ofFields, T39.wdata_ofFields] at e1 e2 e3
    exact ⟨e1, e2, e3⟩
  · rintro ⟨rfl, rfl, rfl⟩
    rfl

end Sys2Proof
end

