-- ==== Sys2Proof/Laws/Encoder.lean ====
section
/-! SUPPORT. The scaler's range, the digits of a scaled value, and the blanking loop unrolled. -/

namespace Sys2Proof.Machine

open Sys2Proof

theorem scale_le (temp : Word) : scale temp ≤ 9999 := by
  simp only [scale, clamp, Config.scaledMin, Config.scaledMax]
  omega

/-- The loop of R69 on four bytes, iteration by iteration. -/
theorem blankLoop_eq (a b c e : Byte) :
    blankLoop #v[a, b, c, e] [0, 1, 2] =
      if a = 0#8 then
        if b = 0#8 then
          if c = 0#8 then #v[0x20, 0x20, 0x20, e] else #v[0x20, 0x20, c, e]
        else #v[0x20, b, c, e]
      else #v[a, b, c, e] := by
  simp [blankLoop, Config.blank]

theorem digit_eq_zero {n : Nat} (h : n < 10) : BitVec.ofNat 8 n = 0#8 ↔ n = 0 := by
  rw [← BitVec.toNat_inj]
  simp
  omega

/-- The display of a scaled value, position by position. -/
theorem display_eq {S : Nat} (h : S ≤ 9999) :
    display S = #v[if S < 1000 then 0x20 else BitVec.ofNat 8 (S / 1000), if S < 100 then 0x20 else BitVec.ofNat 8 (S / 100 % 10),
      if S < 10 then 0x20 else BitVec.ofNat 8 (S / 10 % 10), BitVec.ofNat 8 (S % 10)] := by
  have h0 : S / 1000 % 10 = S / 1000 := by omega
  rw [display, digitsOf, blankLoop_eq]
  have hS : S / 1000 < 10 := by omega
  simp only [digit_eq_zero (Nat.mod_lt _ (by decide : 10 > 0)), h0, digit_eq_zero hS]
  by_cases h1 : S < 1000
  · by_cases h2 : S < 100
    · by_cases h3 : S < 10
      · simp [h1, h2, h3, show S / 1000 = 0 by omega, show S / 100 % 10 = 0 by omega, show S / 10 % 10 = 0 by omega]
      · simp [h1, h2, h3, show S / 1000 = 0 by omega, show S / 100 % 10 = 0 by omega, show S / 10 % 10 ≠ 0 by omega]
    · simp [h1, h2, show ¬ S < 10 by omega, show S / 1000 = 0 by omega, show S / 100 % 10 ≠ 0 by omega]
  · simp [h1, show ¬ S < 100 by omega, show ¬ S < 10 by omega, show S / 1000 ≠ 0 by omega]

end Sys2Proof.Machine
end

