-- ==== Sys2Proof/Laws/State.lean ====
section
/-! SUPPORT. One lemma per field per update of State, so that no proof unfolds a record update. -/

namespace Sys2Proof.Machine

open Sys2Proof

/-! ### respond -/

@[simp] theorem State.respond_temp (s : State) (v : Word) : (s.respond v).temp = s.temp := rfl
@[simp] theorem State.respond_digits (s : State) (v : Word) : (s.respond v).digits = s.digits := rfl
@[simp] theorem State.respond_scaled (s : State) (v : Word) : (s.respond v).scaled = s.scaled := rfl
@[simp] theorem State.respond_pktValid (s : State) (v : Word) : (s.respond v).pktValid = s.pktValid := rfl
@[simp] theorem State.respond_illegal (s : State) (v : Word) : (s.respond v).illegal = s.illegal := rfl
@[simp] theorem State.respond_pkt (s : State) (v : Word) : (s.respond v).pkt = s.pkt := rfl
@[simp] theorem State.respond_rsp (s : State) (v : Word) : (s.respond v).rsp = some v := rfl
@[simp] theorem State.respond_host (s : State) (v : Word) : (s.respond v).host = s.host := rfl

/-! ### withRequest -/

@[simp] theorem State.withRequest_temp (s : State) (x : T39) : (s.withRequest x).temp = s.temp := rfl
@[simp] theorem State.withRequest_digits (s : State) (x : T39) : (s.withRequest x).digits = s.digits := rfl
@[simp] theorem State.withRequest_scaled (s : State) (x : T39) : (s.withRequest x).scaled = s.scaled := rfl
@[simp] theorem State.withRequest_pktValid (s : State) (x : T39) : (s.withRequest x).pktValid = s.pktValid := rfl
@[simp] theorem State.withRequest_illegal (s : State) (x : T39) : (s.withRequest x).illegal = s.illegal := rfl
@[simp] theorem State.withRequest_pkt (s : State) (x : T39) : (s.withRequest x).pkt = s.pkt := rfl
@[simp] theorem State.withRequest_rsp (s : State) (x : T39) : (s.withRequest x).rsp = s.rsp := rfl
@[simp] theorem State.withRequest_host (s : State) (x : T39) : (s.withRequest x).host = .request x :: s.host := rfl

/-! ### withReset -/

@[simp] theorem State.withReset_temp (s : State) : (s.withReset).temp = s.temp := rfl
@[simp] theorem State.withReset_digits (s : State) : (s.withReset).digits = s.digits := rfl
@[simp] theorem State.withReset_scaled (s : State) : (s.withReset).scaled = s.scaled := rfl
@[simp] theorem State.withReset_pktValid (s : State) : (s.withReset).pktValid = s.pktValid := rfl
@[simp] theorem State.withReset_illegal (s : State) : (s.withReset).illegal = s.illegal := rfl
@[simp] theorem State.withReset_pkt (s : State) : (s.withReset).pkt = s.pkt := rfl
@[simp] theorem State.withReset_rsp (s : State) : (s.withReset).rsp = s.rsp := rfl
@[simp] theorem State.withReset_host (s : State) : (s.withReset).host = .reset :: s.host := rfl

/-! ### resetInput -/

@[simp] theorem State.resetInput_temp (s : State) : (s.resetInput).temp = 0 := rfl
@[simp] theorem State.resetInput_digits (s : State) : (s.resetInput).digits = 0 := rfl
@[simp] theorem State.resetInput_scaled (s : State) : (s.resetInput).scaled = 0 := rfl
@[simp] theorem State.resetInput_pktValid (s : State) : (s.resetInput).pktValid = false := rfl
@[simp] theorem State.resetInput_illegal (s : State) : (s.resetInput).illegal = false := rfl
@[simp] theorem State.resetInput_pkt (s : State) : (s.resetInput).pkt = Vector.replicate 65 0 := rfl
@[simp] theorem State.resetInput_rsp (s : State) : (s.resetInput).rsp = none := rfl
@[simp] theorem State.resetInput_host (s : State) : (s.resetInput).host = s.host := rfl

/-! ### raiseIllegal -/

@[simp] theorem State.raiseIllegal_temp (s : State) : (s.raiseIllegal).temp = s.temp := rfl
@[simp] theorem State.raiseIllegal_digits (s : State) : (s.raiseIllegal).digits = s.digits := rfl
@[simp] theorem State.raiseIllegal_scaled (s : State) : (s.raiseIllegal).scaled = s.scaled := rfl
@[simp] theorem State.raiseIllegal_pktValid (s : State) : (s.raiseIllegal).pktValid = s.pktValid := rfl
@[simp] theorem State.raiseIllegal_illegal (s : State) : (s.raiseIllegal).illegal = true := rfl
@[simp] theorem State.raiseIllegal_pkt (s : State) : (s.raiseIllegal).pkt = s.pkt := rfl
@[simp] theorem State.raiseIllegal_rsp (s : State) : (s.raiseIllegal).rsp = s.rsp := rfl
@[simp] theorem State.raiseIllegal_host (s : State) : (s.raiseIllegal).host = s.host := rfl

/-! ### setPktValid -/

@[simp] theorem State.setPktValid_temp (s : State) : (s.setPktValid).temp = s.temp := rfl
@[simp] theorem State.setPktValid_digits (s : State) : (s.setPktValid).digits = s.digits := rfl
@[simp] theorem State.setPktValid_scaled (s : State) : (s.setPktValid).scaled = s.scaled := rfl
@[simp] theorem State.setPktValid_pktValid (s : State) : (s.setPktValid).pktValid = true := rfl
@[simp] theorem State.setPktValid_illegal (s : State) : (s.setPktValid).illegal = s.illegal := rfl
@[simp] theorem State.setPktValid_pkt (s : State) : (s.setPktValid).pkt = s.pkt := rfl
@[simp] theorem State.setPktValid_rsp (s : State) : (s.setPktValid).rsp = s.rsp := rfl
@[simp] theorem State.setPktValid_host (s : State) : (s.setPktValid).host = s.host := rfl

/-! ### encodeBody -/

@[simp] theorem State.encodeBody_temp (s : State) : (s.encodeBody).temp = s.temp := rfl
@[simp] theorem State.encodeBody_digits (s : State) : (s.encodeBody).digits = packBytes (display (scale s.temp)) := rfl
@[simp] theorem State.encodeBody_scaled (s : State) : (s.encodeBody).scaled = (BitVec.ofNat 14 (scale s.temp)).setWidth 32 := rfl
@[simp] theorem State.encodeBody_pktValid (s : State) : (s.encodeBody).pktValid = s.pktValid := rfl
@[simp] theorem State.encodeBody_illegal (s : State) : (s.encodeBody).illegal = s.illegal := rfl
@[simp] theorem State.encodeBody_pkt (s : State) : (s.encodeBody).pkt = s.pkt := rfl
@[simp] theorem State.encodeBody_rsp (s : State) : (s.encodeBody).rsp = s.rsp := rfl
@[simp] theorem State.encodeBody_host (s : State) : (s.encodeBody).host = s.host := rfl

/-! ### buildBody -/

@[simp] theorem State.buildBody_temp (s : State) : (s.buildBody).temp = s.temp := rfl
@[simp] theorem State.buildBody_digits (s : State) : (s.buildBody).digits = s.digits := rfl
@[simp] theorem State.buildBody_scaled (s : State) : (s.buildBody).scaled = s.scaled := rfl
@[simp] theorem State.buildBody_pktValid (s : State) : (s.buildBody).pktValid = true := rfl
@[simp] theorem State.buildBody_illegal (s : State) : (s.buildBody).illegal = s.illegal := rfl
@[simp] theorem State.buildBody_pkt (s : State) : (s.buildBody).pkt = packet (digitBytes s.digits) := rfl
@[simp] theorem State.buildBody_rsp (s : State) : (s.buildBody).rsp = s.rsp := rfl
@[simp] theorem State.buildBody_host (s : State) : (s.buildBody).host = s.host := rfl

/-! ### clearIllegal -/

@[simp] theorem State.clearIllegal_temp (d : Word) (s : State) : (s.clearIllegal d).temp = s.temp := by
  unfold State.clearIllegal; split <;> rfl
@[simp] theorem State.clearIllegal_digits (d : Word) (s : State) : (s.clearIllegal d).digits = s.digits := by
  unfold State.clearIllegal; split <;> rfl
@[simp] theorem State.clearIllegal_scaled (d : Word) (s : State) : (s.clearIllegal d).scaled = s.scaled := by
  unfold State.clearIllegal; split <;> rfl
@[simp] theorem State.clearIllegal_pktValid (d : Word) (s : State) : (s.clearIllegal d).pktValid = s.pktValid := by
  unfold State.clearIllegal; split <;> rfl
@[simp] theorem State.clearIllegal_illegal (d : Word) (s : State) :
    (s.clearIllegal d).illegal = if d.getLsbD 1 then false else s.illegal := by
  unfold State.clearIllegal; split <;> rfl
@[simp] theorem State.clearIllegal_pkt (d : Word) (s : State) : (s.clearIllegal d).pkt = s.pkt := by
  unfold State.clearIllegal; split <;> rfl
@[simp] theorem State.clearIllegal_rsp (d : Word) (s : State) : (s.clearIllegal d).rsp = s.rsp := by
  unfold State.clearIllegal; split <;> rfl
@[simp] theorem State.clearIllegal_host (d : Word) (s : State) : (s.clearIllegal d).host = s.host := by
  unfold State.clearIllegal; split <;> rfl

end Sys2Proof.Machine
end

