-- ==== Sys2Proof/Laws/Exec.lean ====
section
/-! SUPPORT. What each meaning, one step and a run can answer, said once. -/

namespace Sys2Proof.Machine

open Sys2Proof

/-- The state an instruction leaves, before its response. -/
def effect : Instr → State → State
  | .encode, s => s.encodeBody
  | .build, s => s.buildBody
  | .encodeBuild, s => s.encodeBody.buildBody
  | .wrTemp d, s => { s with temp := d }
  | .wrDigits d, s => { s with digits := d }
  | .wrStatus d, s => s.clearIllegal d
  | .cmdRsvd _, s => s.raiseIllegal
  | .rdTemp _, s | .rdDigits _, s | .rdScaled _, s | .rdStatus _, s | .rdPkt _ _, s | .rdPkt16 _, s
  | .razWi _ _ _, s => s

/-- The read data an instruction answers. -/
def rdataOf : Instr → State → Word
  | .rdTemp _, s => s.temp
  | .rdDigits _, s => s.digits
  | .rdScaled _, s => s.scaledValue
  | .rdStatus _, s => s.statusWord
  | .rdPkt w _, s => s.pktWord w
  | .rdPkt16 _, s => s.pktLastWord
  | .encode, _ | .build, _ | .encodeBuild, _ | .wrTemp _, _ | .wrDigits _, _ | .wrStatus _, _ | .cmdRsvd _, _
  | .razWi _ _ _, _ => 0

/-- Every meaning answers a next state: its effect, and its read data as the response. -/
theorem exec_eq (i : Instr) (s : State) : exec i s = .next ((effect i s).respond (rdataOf i s)) := by
  cases i <;> rfl

theorem effect_host (i : Instr) (s : State) : (effect i s).host = s.host := by
  cases i <;> simp [effect]

theorem step_withRequest (s : State) (x : T39) : step (s.withRequest x) = exec (decode x) s := rfl

theorem step_withReset (s : State) : step s.withReset = .next s.resetInput := rfl

/-- What one step can do: nothing, a reset, or the transaction that comes next. -/
theorem step_cases {s t : State} (h : step s = .next t) :
    (s.host = [] ∧ t = s) ∨ (∃ rest, s.host = .reset :: rest ∧ t = { s with host := rest }.resetInput) ∨
      ∃ x rest, s.host = .request x :: rest ∧
        t = (effect (decode x) { s with host := rest }).respond (rdataOf (decode x) { s with host := rest }) := by
  unfold step at h
  split at h
  · rename_i hh
    injection h with h
    exact .inl ⟨hh, h.symm⟩
  · rename_i rest hh
    injection h with h
    exact .inr (.inl ⟨rest, hh, h.symm⟩)
  · rename_i x rest hh
    rw [exec_eq] at h
    injection h with h
    exact .inr (.inr ⟨x, rest, hh, h.symm⟩)

/-- A run performs its first transaction and goes on from the state that leaves. -/
theorem runTransactions_cons (s : State) (x : T39) (rest : List T39) :
    runTransactions s (x :: rest) =
      match runTransactions ((effect (decode x) s).respond (rdataOf (decode x) s)) rest with
      | .next (u, seen) => .next (u, (if x.we then [] else [rdataOf (decode x) s]) ++ seen)
      | .fault r => .fault r
      | .refused r => .refused r := by
  rw [runTransactions, step_withRequest, exec_eq]
  rfl

/-- A run of two sequences is the run of the first, then of the second from the state it leaves. -/
theorem runTransactions_append {s t : State} {xs : List T39} {seen : List Word}
    (h : runTransactions s xs = .next (t, seen)) (ys : List T39) :
    runTransactions s (xs ++ ys) =
      match runTransactions t ys with
      | .next (u, seen') => .next (u, seen ++ seen')
      | .fault r => .fault r
      | .refused r => .refused r := by
  induction xs generalizing s seen with
  | nil =>
    simp only [runTransactions, Host.Outcome.next.injEq, Prod.mk.injEq] at h
    obtain ⟨rfl, rfl⟩ := h
    simp only [List.nil_append]
    cases runTransactions s ys <;> rfl
  | cons x xs ih =>
    rw [runTransactions_cons] at h
    rw [List.cons_append, runTransactions_cons]
    split at h
    · rename_i u seen₀ hu
      simp only [Host.Outcome.next.injEq, Prod.mk.injEq] at h
      obtain ⟨rfl, rfl⟩ := h
      rw [ih hu]
      cases runTransactions u ys <;> simp
    · exact absurd h (by simp)
    · exact absurd h (by simp)

/-- What every transaction of a run keeps, the run keeps. -/
theorem runTransactions_keeps {P : State → Prop} {xs : List T39}
    (hP : ∀ x ∈ xs, ∀ s, P s → P ((effect (decode x) s).respond (rdataOf (decode x) s)))
    {s t : State} {seen : List Word} (hs : P s) (h : runTransactions s xs = .next (t, seen)) : P t := by
  induction xs generalizing s seen with
  | nil =>
    simp only [runTransactions, Host.Outcome.next.injEq, Prod.mk.injEq] at h
    exact h.1 ▸ hs
  | cons x xs ih =>
    rw [runTransactions_cons] at h
    split at h
    · rename_i u seen₀ hu
      simp only [Host.Outcome.next.injEq, Prod.mk.injEq] at h
      obtain ⟨rfl, rfl⟩ := h
      exact ih (fun y hy => hP y (List.mem_cons_of_mem x hy)) (hP x (List.mem_cons_self ..) s hs) hu
    · exact absurd h (by simp)
    · exact absurd h (by simp)

end Sys2Proof.Machine
end

