-- ==== Sys2Proof/Laws/Packet.lean ====
section
/-! SUPPORT. The packet written out, and how four bytes sit in a word. -/

namespace Sys2Proof.Machine

open Sys2Proof

theorem getLsbD_packBytes (a b c d : Byte) (i : Nat) :
    (packBytes #v[a, b, c, d]).getLsbD i =
      if i < 8 then a.getLsbD i
      else if i - 8 < 8 then b.getLsbD (i - 8)
      else if i - 8 - 8 < 8 then c.getLsbD (i - 8 - 8)
      else d.getLsbD (i - 8 - 8 - 8) := by
  simp only [packBytes, BitVec.getLsbD_append]
  rfl

/-- Eight bits of a word are a byte when they agree with it bit by bit. -/
theorem extract_eq_byte {x : Word} {n : Nat} {v : Byte} (h : ∀ i < 8, x.getLsbD (n + i) = v.getLsbD i) :
    x.extractLsb' n 8 = v := by
  apply BitVec.eq_of_getLsbD_eq
  intro i hi
  rw [BitVec.getLsbD_extractLsb', h i hi]
  simp [hi]

theorem extract_packBytes (a b c d : Byte) :
    (packBytes #v[a, b, c, d]).extractLsb' 0 8 = a ∧ (packBytes #v[a, b, c, d]).extractLsb' 8 8 = b ∧
      (packBytes #v[a, b, c, d]).extractLsb' 16 8 = c ∧ (packBytes #v[a, b, c, d]).extractLsb' 24 8 = d := by
  refine ⟨extract_eq_byte ?_, extract_eq_byte ?_, extract_eq_byte ?_, extract_eq_byte ?_⟩ <;> intro i hi <;>
    rw [getLsbD_packBytes]
  · rw [if_pos (by omega), Nat.zero_add]
  · rw [if_neg (by omega), if_pos (by omega), Nat.add_sub_cancel_left]
  · rw [if_neg (by omega), if_neg (by omega), if_pos (by omega), show 16 + i - 8 - 8 = i by omega]
  · rw [if_neg (by omega), if_neg (by omega), if_neg (by omega), show 24 + i - 8 - 8 - 8 = i by omega]

/-- The bytes of a word are the bytes it was packed from (R15, R38). -/
theorem digitBytes_packBytes (a b c d : Byte) : digitBytes (packBytes #v[a, b, c, d]) = #v[a, b, c, d] := by
  obtain ⟨ha, hb, hc, hd⟩ := extract_packBytes a b c d
  simp only [digitBytes, ha, hb, hc, hd]

/-- The frame before its checksum, byte by byte (R74). -/
theorem frame_toList (d : Vector Byte 4) :
    (frame d).toList = [(0x00 : Byte), 0x3A, 0xB5, 0x01, d[0], d[1], d[2], d[3], 0x01, 0x01, 0x01, 0x00, 0x00] ++
      List.replicate 52 0 := rfl

/-- The checksum of the frame (R83). -/
theorem checksum_eq (d : Vector Byte 4) :
    accumulate (checksumBytes (frame d)) = (0xF3 : Byte) + d[0] + d[1] + d[2] + d[3] := by
  rw [checksumBytes, frame_toList]
  generalize d[0] = a, d[1] = b, d[2] = c, d[3] = e
  simp only [accumulate, List.cons_append, List.take_succ_cons, List.take_zero, List.foldl_cons, List.foldl_nil]
  have h : (0x00 : Byte) + 0x00 + 0x3A + 0xB5 + 0x01 = 0xF0 := rfl
  have h' : (0xF3 : Byte) = 0xF0 + 0x01 + 0x01 + 0x01 := rfl
  rw [h, h']
  simp only [BitVec.ofNat_eq_ofNat, BitVec.add_zero]
  ac_rfl

/-- The packet, byte by byte (R74, R83). -/
theorem packet_toList (d : Vector Byte 4) :
    (packet d).toList = [(0x00 : Byte), 0x3A, 0xB5, 0x01, d[0], d[1], d[2], d[3], 0x01, 0x01, 0x01, 0x00, 0x00,
      (0xF3 : Byte) + d[0] + d[1] + d[2] + d[3]] ++ List.replicate 51 0 := by
  rw [packet, checksum_eq, Vector.toList_set, frame_toList]
  generalize (0xF3 : Byte) + d[0] + d[1] + d[2] + d[3] = c
  simp only [List.cons_append, List.nil_append, List.set_cons_succ, List.replicate_succ, List.set_cons_zero]

/-- A packet byte, looked up in the packet written out. -/
theorem packet_get (d : Vector Byte 4) (i : Nat) (h : i < 65) :
    (packet d)[i] = ([(0x00 : Byte), 0x3A, 0xB5, 0x01, d[0], d[1], d[2], d[3], 0x01, 0x01, 0x01, 0x00, 0x00,
      (0xF3 : Byte) + d[0] + d[1] + d[2] + d[3]] ++ List.replicate 51 0)[i]'(by simpa using h) := by
  simp only [← packet_toList, Vector.getElem_toList]

theorem toNat_append {n m : Nat} (x : BitVec n) (y : BitVec m) : (x ++ y).toNat = x.toNat * 2 ^ m + y.toNat := by
  rw [BitVec.toNat_append, ← Nat.shiftLeft_add_eq_or_of_lt y.isLt, Nat.shiftLeft_eq]

/-- Four packed bytes as a number. -/
theorem toNat_packBytes (a b c d : Byte) :
    (packBytes #v[a, b, c, d]).toNat = a.toNat + 2 ^ 8 * b.toNat + 2 ^ 16 * c.toNat + 2 ^ 24 * d.toNat := by
  show ((d ++ c ++ b ++ a : BitVec (8 + 8 + 8 + 8))).toNat = _
  rw [toNat_append, toNat_append, toNat_append]
  omega

end Sys2Proof.Machine
end

