-- ==== Sys2Proof/Laws/PerInstr.lean ====
section
/-! SUPPORT. The family EncodeFields: what the three fields of an instruction's word are, one lemma per constructor. -/

namespace Sys2Proof.Laws.EncodeFields

open Sys2Proof

/-- The fields of the encoded word are the instruction's own `we`, slot and data (R51). -/
def Statement (i : Instr) : Prop :=
  (Sys2Proof.encode i).we = i.weBit ∧ (Sys2Proof.encode i).waddr = i.slot ∧ (Sys2Proof.encode i).wdata = i.data

theorem fields (i : Instr) : Statement i :=
  ⟨T39.we_ofFields _ _ _, T39.waddr_ofFields _ _ _, T39.wdata_ofFields _ _ _⟩

theorem encode : Statement .encode := fields _
theorem build : Statement .build := fields _
theorem encodeBuild : Statement .encodeBuild := fields _
theorem wrTemp (wdata : Word) : Statement (.wrTemp wdata) := fields _
theorem wrDigits (wdata : Word) : Statement (.wrDigits wdata) := fields _
theorem wrStatus (wdata : Word) : Statement (.wrStatus wdata) := fields _
theorem rdTemp (ign : Word) : Statement (.rdTemp ign) := fields _
theorem rdDigits (ign : Word) : Statement (.rdDigits ign) := fields _
theorem rdScaled (ign : Word) : Statement (.rdScaled ign) := fields _
theorem rdStatus (ign : Word) : Statement (.rdStatus ign) := fields _
theorem rdPkt (w : BitVec 4) (ign : Word) : Statement (.rdPkt w ign) := fields _
theorem rdPkt16 (ign : Word) : Statement (.rdPkt16 ign) := fields _
theorem cmdRsvd (c : Word) : Statement (.cmdRsvd c) := fields _
theorem razWi (we : Bool) (slot : Slot) (wdata : Word) : Statement (.razWi we slot wdata) := fields _

end Sys2Proof.Laws.EncodeFields
end

