-- ==== Sys2Proof/Laws/Port.lean ====
section
/-! SUPPORT. What one clock edge of the port can do, case by case. -/

namespace Sys2Proof.Machine

open Sys2Proof

/-- After a wait the port is ready or holding off; no transaction is outstanding and no response is present. -/
theorem Phase.afterWait_cases (n : Nat) : Phase.afterWait n = .ready ∨ ∃ m, Phase.afterWait n = .holdOff m := by
  cases n with
  | zero => exact .inl rfl
  | succ n => exact .inr ⟨n, rfl⟩

theorem Port.proceed_zero (p : Port) (x : T39) : p.proceed x 0 = .next { p with
    core := (effect (decode x) p.core).respond (rdataOf (decode x) p.core), phase := .respond } := by
  rw [Port.proceed, step_withRequest, exec_eq]; rfl

theorem Port.proceed_succ (p : Port) (x : T39) (n : Nat) : p.proceed x (n + 1) = .next { p with phase := .busy x n } := rfl

/-- With no busy cycle to come the transaction is performed and answered; with some, the next cycle is one of them. -/
theorem Port.proceed_cases {p q : Port} {x : T39} {n : Nat} (h : p.proceed x n = .next q) :
    (n = 0 ∧ q = { p with
      core := (effect (decode x) p.core).respond (rdataOf (decode x) p.core), phase := .respond }) ∨
    ∃ m, n = m + 1 ∧ q = { p with phase := .busy x m } := by
  cases n with
  | zero => rw [Port.proceed_zero] at h; injection h with h; exact .inl ⟨rfl, h.symm⟩
  | succ m => rw [Port.proceed_succ] at h; injection h with h; exact .inr ⟨m, rfl, h.symm⟩

/-- What one edge can do: reset; count a wait down; accept a request and go on with it; wait with none; go on with the
outstanding transaction; or end the response. What going on does is `Port.proceed_cases`. -/
theorem Port.edge_cases {p q : Port} {i : PinsIn} (h : p.edge i = .next q) :
    (i.rstN = false ∧ q.core = p.core.resetInput ∧ q.phase = Phase.afterWait (Config.holdOffCycles p.drawn)) ∨
    (i.rstN = true ∧
      ((∃ n, p.phase = .holdOff n ∧ q = { p with phase := Phase.afterWait n }) ∨
      (p.phase = .ready ∧ i.reqValid = true ∧ (p.drawing .ready).proceed i.word (Config.busyCycles p.drawn) = .next q) ∨
      (p.phase = .ready ∧ i.reqValid = false ∧ q = p) ∨
      (∃ x n, p.phase = .busy x n ∧ p.proceed x n = .next q) ∨
      (p.phase = .respond ∧ q = p.drawing (Phase.afterWait (Config.holdOffCycles p.drawn))))) := by
  obtain ⟨rstN, reqValid, reqWe, reqWaddr, reqWdata⟩ := i
  cases rstN with
  | false =>
    simp only [Port.edge, if_true, Port.resetEdge, step_withReset, Port.after] at h
    injection h with h
    subst h
    exact .inl ⟨rfl, rfl, rfl⟩
  | true =>
    refine .inr ⟨rfl, ?_⟩
    simp only [Port.edge, Bool.true_eq_false, if_false] at h
    split at h
    · rename_i n hp
      injection h with h
      exact .inl ⟨n, hp, h.symm⟩
    · rename_i hp
      split at h
      · rename_i hv
        exact .inr (.inl ⟨hp, hv, h⟩)
      · rename_i hv
        injection h with h
        exact .inr (.inr (.inl ⟨hp, by simpa using hv, h.symm⟩))
    · rename_i x n hp
      exact .inr (.inr (.inr (.inl ⟨x, n, hp, h⟩)))
    · rename_i hp
      injection h with h
      exact .inr (.inr (.inr (.inr ⟨hp, h.symm⟩)))

end Sys2Proof.Machine
end

