-- ==== Sys2Proof/Tests/Slice0.lean ====
section
/-! SUPPORT. The model's own tests: expected values are those of spec/95_test_vectors.md, R56 and R62, and witnesses for
the hypotheses of the statements. -/

namespace Sys2Proof.Tests

open Sys2Proof Sys2Proof.Machine

/-- A field of the next state, if there is one. -/
def fieldOf {α : Type} (f : State → α) (o : Host.Outcome State Fault Refusal) : Option α :=
  match o with
  | .next s => some (f s)
  | .fault _ => none
  | .refused _ => none

/-- The reset state with a temperature. -/
def withTemp (t : Word) : State := { State.reset with temp := t }

/-- The reset state with a display value. -/
def withDigits (d : Word) : State := { State.reset with digits := d }

/-- The reset state with both flags set. -/
def flagged : State := { State.reset with pktValid := true, illegal := true }

/-- The state program P1 of 95_test_vectors.md ends in, by its packet bytes. -/
def shown : State :=
  { State.reset with
    temp := 0x00005BA0, digits := 0x04030220, scaled := 0x000000EA, pktValid := true
    pkt := ((Vector.replicate 65 0).set 1 0x3A).set 2 0xB5 |>.set 3 1 |>.set 4 0x20 |>.set 5 2 |>.set 6 3 |>.set 7 4
      |>.set 8 1 |>.set 9 1 |>.set 10 1 |>.set 13 0x1C }

/-! ### WellFormed: each check refuses an ill-formed term -/

theorem test_wf_refuses_cmdRsvd_encode : (Instr.cmdRsvd 1).wf = false := by decide
theorem test_wf_refuses_cmdRsvd_build : (Instr.cmdRsvd 2).wf = false := by decide
theorem test_wf_refuses_cmdRsvd_encodeBuild : (Instr.cmdRsvd 3).wf = false := by decide
theorem test_wf_refuses_razWi_read_temp : (Instr.razWi false 0 0).wf = false := by decide
theorem test_wf_refuses_razWi_read_window : (Instr.razWi false 32 0).wf = false := by decide
theorem test_wf_refuses_razWi_write_cmd : (Instr.razWi true 3 0).wf = false := by decide
theorem test_wf_accepts_razWi_boundaries :
    ∀ a ∈ [(3 : Slot), 5, 15, 33, 63], (Instr.razWi false a 0).wf = true := by decide
theorem test_wf_accepts_razWi_write_boundaries :
    ∀ a ∈ [(2 : Slot), 5, 15, 16, 32, 33, 63], (Instr.razWi true a 0).wf = true := by decide

/-! ### Decoding: words of R56, R62 and section 2.8 -/

theorem test_decode_encode : decode 0x4300000001 = .encode := by decide
theorem test_decode_build : decode 0x4300000002 = .build := by decide
theorem test_decode_encodeBuild : decode 0x4300000003 = .encodeBuild := by decide
theorem test_decode_wrTemp : decode 0x40FFFFEC78 = .wrTemp 0xFFFFEC78 := by decide
theorem test_decode_wrDigits : decode 0x4100000001 = .wrDigits 1 := by decide
theorem test_decode_wrStatus : decode 0x4400000002 = .wrStatus 2 := by decide
theorem test_decode_rdTemp : decode 0x00DEADBEEF = .rdTemp 0xDEADBEEF := by decide
theorem test_decode_rdDigits : decode 0x0100000000 = .rdDigits 0 := by decide
theorem test_decode_rdScaled : decode 0x0200000000 = .rdScaled 0 := by decide
theorem test_decode_rdStatus : decode 0x0400000000 = .rdStatus 0 := by decide
theorem test_decode_rdPkt_first : decode 0x1000000000 = .rdPkt 0 0 := by decide
theorem test_decode_rdPkt_last : decode 0x1F00000000 = .rdPkt 15 0 := by decide
theorem test_decode_rdPkt16 : decode 0x2000000000 = .rdPkt16 0 := by decide
theorem test_decode_cmdRsvd_zero : decode 0x4300000000 = .cmdRsvd 0 := by decide
theorem test_decode_cmdRsvd_high_bits : decode 0x4300000101 = .cmdRsvd 0x101 := by decide
theorem test_decode_razWi_read : decode 0x2100000000 = .razWi false 33 0 := by decide
theorem test_decode_razWi_write : decode 0x7FFFFFFFFF = .razWi true 63 0xFFFFFFFF := by decide
theorem test_encode_wrTemp : encode (.wrTemp 23456) = 0x4000005BA0 := by decide
theorem test_encode_rdPkt : encode (.rdPkt 1 0) = 0x1100000000 := by decide
theorem test_decodeTableWord_forty_bits : decodeTableWord 40 0x4300000003 = some .encodeBuild := by decide
theorem test_decodeTableWord_refuses_bit_39 : decodeTableWord 40 0x8000000000 = none := by decide
theorem test_selectRow_rsvd : (selectRow 0x4300000007).map Row.mnemonic = some .CMD_RSVD := by decide
theorem test_selectRow_raz : (selectRow 0x0300000000).map Row.mnemonic = some .RAZ_WI := by decide

/-! ### One step of each instruction -/

theorem test_encode_inner_zero :
    fieldOf (fun s => (s.scaled, s.digits)) (exec .encode (withTemp 101000)) = some (1010, 0x00010001) := by decide
theorem test_encode_conflict_C1 : fieldOf State.digits (exec .encode (withTemp 300)) = some 0x03202020 := by decide
theorem test_scale_vectors : [(0x80000000 : Word), 0xFFFFFFFF, 99, 100, 9999, 999899, 999900, 0x7FFFFFFF].map scale =
    [0, 0, 0, 1, 99, 9998, 9999, 9999] := by decide
theorem test_build_checksum_wraps :
    fieldOf (fun s => (s.pkt[7], s.pkt[13], s.pktValid)) (exec .build (withDigits 0xFFFFFFFF)) =
      some (0xFF, 0xEF, true) := by decide
theorem test_build_verbatim_bytes :
    fieldOf (fun s => s.pkt.toList.take 14) (exec .build (withDigits 0x7F80300A)) =
      some [0, 0x3A, 0xB5, 1, 0x0A, 0x30, 0x80, 0x7F, 1, 1, 1, 0, 0, 0x2C] := by decide
theorem test_encodeBuild_ignores_digits :
    fieldOf (fun s => (s.digits, s.pkt[7], s.pkt[13])) (exec .encodeBuild { withDigits 0xDEADBEEF with temp := 23456 }) =
      some (0x04030220, 4, 0x1C) := by decide
theorem test_wrTemp : fieldOf State.temp (exec (.wrTemp 0x80000000) shown) = some 0x80000000 := by decide
theorem test_wrDigits : fieldOf (fun s => (s.digits, s.scaled)) (exec (.wrDigits 0xFFFFFFFF) shown) =
    some (0xFFFFFFFF, 0xEA) := by decide
theorem test_wrStatus_F6 : fieldOf State.statusWord (exec (.wrStatus 0xFFFFFFFD) flagged) = some 3 := by decide
theorem test_wrStatus_F7 : fieldOf State.statusWord (exec (.wrStatus 0xFFFFFFFF) flagged) = some 1 := by decide
theorem test_rdTemp : fieldOf State.rsp (exec (.rdTemp 7) (withTemp 0xFFFFEC78)) = some (some 0xFFFFEC78) := by decide
theorem test_rdDigits : fieldOf State.rsp (exec (.rdDigits 0) shown) = some (some 0x04030220) := by decide
theorem test_rdScaled : fieldOf State.rsp (exec (.rdScaled 0) shown) = some (some 0xEA) := by decide
theorem test_rdStatus : fieldOf State.rsp (exec (.rdStatus 0) { flagged with pktValid := false }) = some (some 2) := by
  decide
theorem test_rdPkt0 : fieldOf State.rsp (exec (.rdPkt 0 0) shown) = some (some 0x01B53A00) := by decide
theorem test_rdPkt3 : fieldOf State.rsp (exec (.rdPkt 3 0) shown) = some (some 0x00001C00) := by decide
theorem test_rdPkt16 : fieldOf State.rsp (exec (.rdPkt16 0) shown) = some (some 0) := by decide
theorem test_cmdRsvd : fieldOf (fun s => (s.statusWord, s.pkt)) (exec (.cmdRsvd 0x80000003) shown) =
    some (3, shown.pkt) := by decide
theorem test_razWi_write_window : fieldOf (fun s => (s.pkt, s.illegal, s.rsp)) (exec (.razWi true 19 0xFFFFFFFF) shown) =
    some (shown.pkt, false, some 0) := by decide
theorem test_razWi_read_cmd : fieldOf State.rsp (exec (.razWi false 3 0) shown) = some (some 0) := by decide
theorem test_step_placed_word :
    fieldOf State.temp (step (State.reset.withFetchWord 40 0x4000005BA0)) = some 23456 := by decide
theorem test_step_reset : fieldOf State.pktValid (step shown.withReset) = some false := by decide

/-! ### The assembler: R62 and the programs of 95_test_vectors.md -/

theorem test_asm_negative : assembleText "wr TEMP, -5000" = some [0x40FFFFEC78] := by decide
theorem test_asm_hex_and_comment : assembleText "wr PKT3, 0xFFFFFFFF ; no effect" = some [0x53FFFFFFFF] := by decide
theorem test_asm_show : assembleText "show 23456" = some [0x4000005BA0, 0x4300000003] := by decide
theorem test_asm_setdig : assembleText "setdig 1, 0, 0, 0" = some [0x4100000001] := by decide
theorem test_asm_number_slot : assembleText "rd 40" = some [0x2800000000] := by decide
theorem test_asm_refuses_slot_64 : assembleText "rd 64" = none := by decide
theorem test_asm_refuses_33_bits : assembleText "wr TEMP, 0x100000000" = none := by decide
theorem test_asm_program : assembleProgram ["settemp 300", "; encode it", "encode", "rd SCALED"] =
    some [0x400000012C, 0x4300000001, 0x0200000000] := by decide

/-! ### Witnesses: states and operands that meet the hypotheses of the statements -/

theorem shown_inv : Inv shown :=
  ⟨by decide, by decide, fun h => absurd h (by decide), fun _ => by unfold WellFormedPacket; decide⟩

theorem reset_inv : Inv State.reset :=
  ⟨by decide, by decide, fun _ => by decide, fun h => absurd h (by decide)⟩

theorem witness_DecodeOfEncode : (Instr.cmdRsvd 0x101).wf = true ∧ (Instr.razWi true 2 5).wf = true := by decide
theorem witness_EveryWordEncodes : (Instr.wrTemp 23456).wf = true ∧ encode (.wrTemp 23456) = 0x4000005BA0 := by decide
theorem witness_RowsInAnyOrder : priorityOneRows.reverse.Perm priorityOneRows := List.reverse_perm _
theorem witness_PriorityOneRows :
    (⟨.ENCODE, 0x4300000001, 0x7FFFFFFFFF, 1⟩ : Row) ∈ priorityOneRows ∧
      (⟨.RD_PKT, 0x1000000000, 0x7000000000, 1⟩ : Row) ∈ priorityOneRows ∧
      (⟨.ENCODE, 0x4300000001, 0x7FFFFFFFFF, 1⟩ : Row) ≠ ⟨.RD_PKT, 0x1000000000, 0x7000000000, 1⟩ := by decide
theorem witness_TransactionMap_window :
    ∀ a ∈ [(16 : Slot), 31], 16 ≤ a.toNat ∧ a.toNat ≤ 31 := by decide
theorem witness_TransactionMap_rsvd : 
    [(0 : Word), 4, 0xFFFFFFFF].Forall fun d => d ≠ 1 ∧ d ≠ 2 ∧ d ≠ 3 := by decide
theorem witness_TransactionMap_razRead :
    ∀ a ∈ [(3 : Slot), 5, 15, 33, 63], a = 3 ∨ (5 ≤ a.toNat ∧ a.toNat ≤ 15) ∨ 33 ≤ a.toNat := by decide
theorem witness_TransactionMap_razWrite : ∀ a ∈ [(2 : Slot), 5, 63], a = 2 ∨ 5 ≤ a.toNat := by decide
theorem witness_AssemblerLines_inRange :
    ∀ v ∈ [(-2147483648 : Int), -1, 0, 4294967295], -2147483648 ≤ v ∧ v ≤ 4294967295 := by decide
theorem witness_AssemblerLines_outOfRange :
    ∀ v ∈ [(-2147483649 : Int), 4294967296], v < -2147483648 ∨ 4294967295 < v := by decide
theorem witness_StepRunsTheDecodedRequest :
    (State.reset.withRequest 0x4300000001).host = .request 0x4300000001 :: [] ∧
      decodeTableWord 40 0x4300000001 = some .encode := by decide
theorem witness_ResetInput : shown.withReset.host = .reset :: [] ∧ (⟨false, true, true, 3, 1⟩ : PinsIn).rstN = false := by
  decide
theorem witness_StepWithNoInput : State.reset.host = [] := by decide
theorem witness_WrTempWords : (0x40DEADBEEF : T39) &&& 0x7F00000000 = 0x4000000000 := by decide
theorem witness_WrDigitsWords : (0x41FFFFFFFF : T39) &&& 0x7F00000000 = 0x4100000000 := by decide
theorem witness_WrStatusWords : (0x4400000002 : T39) &&& 0x7F00000000 = 0x4400000000 := by decide
theorem witness_RdTempAndRdDigitsWords :
    (0x00DEADBEEF : T39) &&& 0x7F00000000 = 0x0000000000 ∧ (0x0100000000 : T39) &&& 0x7F00000000 = 0x0100000000 := by
  decide
theorem witness_RdScaled :
    shown.scaled.extractLsb' 14 18 = 0 ∧ (0x0200000000 : T39) &&& 0x7F00000000 = 0x0200000000 := by decide
theorem witness_RdStatusWords : (0x0400000000 : T39) &&& 0x7F00000000 = 0x0400000000 := by decide
theorem witness_RdPkt_unbuilt : Inv State.reset ∧ (State.reset.pktValid = false ∨ 4 ≤ (0 : BitVec 4).toNat) :=
  ⟨reset_inv, by decide⟩
theorem witness_RdPkt_upper : Inv shown ∧ ∀ w ∈ [(4 : BitVec 4), 15], (shown.pktValid = false ∨ 4 ≤ w.toNat) :=
  ⟨shown_inv, by decide⟩
theorem witness_RdPktWords : 
    [(0x1000000000 : T39), 0x1F00000000].Forall fun x => x &&& 0x7000000000 = 0x1000000000 := by decide
theorem witness_RdPkt16 : Inv shown ∧ (0x2000000000 : T39) &&& 0x7F00000000 = 0x2000000000 := ⟨shown_inv, by decide⟩
theorem witness_RazWiWords :
    [(0x0300000000 : T39), 0x3F00000000, 0x4200000005, 0x7FFFFFFFFF].Forall fun x =>
      ∀ r ∈ opcodeTable, r.priority ≤ 2 → r.selects x = false := by decide
theorem witness_CmdRsvdWords : [(0x4300000000 : T39), 0x4300000004, 0x43FFFFFFFF].Forall fun x =>
    x &&& 0x7F00000000 = 0x4300000000 ∧ x.wdata ≠ 1 ∧ x.wdata ≠ 2 ∧ x.wdata ≠ 3 := by decide
theorem witness_ScaleSaturates : [(100 : Word), 999899].Forall fun t => 100 ≤ t.toInt ∧ t.toInt ≤ 999899 := by decide
theorem witness_DigitsAndBlanking_range : ∀ S ∈ [0, 9, 10, 99, 100, 999, 1000, 9999], S ≤ 9999 := by decide
theorem witness_Displays_blank : (0 : Fin 4) < 2 ∧ (display 3)[(2 : Fin 4)] = 0x20 := by decide
theorem witness_Displays_zero : (1 : Fin 4).val ≤ 2 ∧ (display 1000)[(1 : Fin 4)] = 0x00 := by decide
theorem witness_Displays_equal : 1000 ≤ 9999 ∧ display 1000 = display 1000 := by decide
theorem witness_PacketLayout_zeros : ∀ i ∈ [(14 : Fin 65), 64], 14 ≤ i.val := by decide
theorem witness_Checksum_order : [(1 : Byte), 2, 3].Perm [3, 2, 1] ∧
    ((packet #v[1, 2, 3, 4]).toList.take 13).reverse.Perm ((packet #v[1, 2, 3, 4]).toList.take 13) :=
  ⟨(List.reverse_perm [3, 2, 1]), List.reverse_perm _⟩
theorem witness_Checksum_digitCodes : ∀ k : Fin 4, IsDigitCode (#v[(0x20 : Byte), 0, 9, 4])[k] := by
  unfold IsDigitCode; decide
theorem witness_BuiltPackets_blank :
    fieldOf (fun t => t.pkt[6]) (exec .encodeBuild (withTemp 300)) = some 0x20 ∧ (1 : Fin 4) < 2 := by decide
theorem witness_BuiltPackets_zero :
    fieldOf (fun t => t.pkt[5]) (exec .encodeBuild (withTemp 100000)) = some 0x00 := by decide
theorem witness_BuildIsIdempotent : shown.digits = (withDigits 0x04030220).digits := by decide
theorem witness_WindowSlots : ∀ a ∈ [(16 : Slot), 31, 32], 16 ≤ a.toNat ∧ a.toNat ≤ 32 := by decide
theorem witness_WritesAndReads : T39.we 0x4300000001 = true ∧ T39.we 0x0400000000 = false := by decide
theorem witness_TempWriter :
    fieldOf (fun t => decide (t.temp ≠ shown.temp)) (step (shown.withRequest 0x4000000000)) = some true := by decide
theorem witness_DigitsAndScaledWriter :
    fieldOf (fun t => decide (t.digits ≠ (withTemp 300).digits ∧ t.scaled ≠ (withTemp 300).scaled))
      (step ((withTemp 300).withRequest 0x4300000001)) = some true := by decide
theorem witness_PktWriter :
    fieldOf (fun t => decide (t.pkt[(1 : Fin 65)] ≠ State.reset.pkt[(1 : Fin 65)]))
      (step (State.reset.withRequest 0x4300000002)) = some true := by decide
theorem witness_PktValid_set : State.reset.pktValid = false ∧
    fieldOf State.pktValid (step (State.reset.withRequest 0x4300000002)) = some true := by decide
theorem witness_PktValid_cleared : shown.pktValid = true ∧
    fieldOf State.pktValid (step shown.withReset) = some false := by decide
theorem witness_Illegal_set : State.reset.illegal = false ∧
    fieldOf State.illegal (step (State.reset.withRequest 0x4300000007)) = some true := by decide
theorem witness_Illegal_cleared : flagged.illegal = true ∧ (2 : Word).getLsbD 1 = true ∧
    fieldOf State.illegal (step (flagged.withRequest 0x4400000002)) = some false := by decide
theorem witness_CommandResults : (withTemp 300).temp = { flagged with temp := 300 }.temp ∧
    (withDigits 7).digits = { shown with digits := 7 }.digits := by decide
theorem witness_StepKeepsInvariant : Inv shown ∧ ∃ t, step (shown.withRequest 0x4300000001) = .next t :=
  ⟨shown_inv, _, rfl⟩
theorem witness_Reachable : Reachable { State.reset with host := [.request 0x4300000002, .reset] } := .reset _

theorem word_encode : decode 0x4300000001 = .encode := by decide
theorem word_build : decode 0x4300000002 = .build := by decide
theorem word_encodeBuild : decode 0x4300000003 = .encodeBuild := by decide
theorem word_wrTemp : decode 0x4000000007 = .wrTemp 7 := by decide
theorem word_wrStatus : decode 0x4400000001 = .wrStatus 1 := by decide
theorem witness_Reads_temp : ∀ x ∈ [(0x4300000001 : T39), 0x4300000003], ∀ e, decode x ≠ .wrTemp e := by
  simp only [List.forall_mem_cons, word_encode, word_encodeBuild]
  simp
theorem witness_Reads_digits : ∀ x ∈ [(0x4000000007 : T39), 0x4300000002],
    (∀ e, decode x ≠ .wrDigits e) ∧ decode x ≠ .encode ∧ decode x ≠ .encodeBuild := by
  simp only [List.forall_mem_cons, word_wrTemp, word_build]
  simp
theorem witness_Reads_scaled :
    ∀ x ∈ [(0x4000000007 : T39), 0x4300000002], decode x ≠ .encode ∧ decode x ≠ .encodeBuild := by
  simp only [List.forall_mem_cons, word_wrTemp, word_build]
  simp
theorem witness_Reads_pkt : (∀ x ∈ [(0x4300000001 : T39), 0x4000000007], decode x ≠ .build ∧ decode x ≠ .encodeBuild) ∧
    ∀ a ∈ [(16 : Slot), 32], 16 ≤ a.toNat ∧ a.toNat ≤ 32 := by
  simp only [List.forall_mem_cons, word_wrTemp, word_encode]
  simp
theorem witness_Reads_illegal : ((4 : Word) ≠ 1 ∧ (4 : Word) ≠ 2 ∧ (4 : Word) ≠ 3) ∧
    ∀ x ∈ [(0x4400000001 : T39), 0x4300000003], ∀ e, decode x = .wrStatus e → e.getLsbD 1 = false := by
  simp only [List.forall_mem_cons, word_wrStatus, word_encodeBuild]
  simp
theorem witness_Reads_cleared : (2 : Word).getLsbD 1 = true ∧
    ∀ x ∈ [(0x4300000001 : T39), 0x4400000001], ∀ c, decode x ≠ .cmdRsvd c := by
  simp only [List.forall_mem_cons, word_encode, word_wrStatus]
  simp

/-- A clock edge with nothing requested. -/
def quiet : PinsIn := ⟨true, false, false, 0, 0⟩

theorem witness_ClockEdge_performs : quiet.rstN = true ∧ (⟨shown, .busy 0x4300000001 0, 0⟩ : Port).phase = .busy 0x4300000001 0 :=
  ⟨rfl, rfl⟩
theorem witness_ClockEdge_accepts : (⟨shown, .ready, 0⟩ : Port).accepts ⟨true, true, true, 3, 1⟩ = true := rfl
theorem witness_ClockEdge_keeps : quiet.rstN = true ∧ (⟨shown, .ready, 0⟩ : Port).accepts quiet = false ∧
    ∀ x, (⟨shown, .ready, 0⟩ : Port).phase ≠ .busy x 0 :=
  ⟨rfl, rfl, fun _ h => nomatch h⟩
theorem witness_Handshake :
    (⟨shown, .ready, 0⟩ : Port).accepts ⟨true, true, true, 3, 1⟩ = true ∧
      (∀ j ∈ List.replicate (Config.busyCycles 0) quiet, j.rstN = true) ∧
      (List.replicate (Config.busyCycles 0) quiet).length = Config.busyCycles (⟨shown, .ready, 0⟩ : Port).drawn :=
  ⟨rfl, fun _ h => (List.eq_of_mem_replicate h) ▸ rfl, List.length_replicate⟩
theorem witness_PortReady :
    (∀ j ∈ List.replicate (Config.holdOffCycles 0) quiet, j.rstN = true) ∧
      (List.replicate (Config.holdOffCycles 0) quiet).length = Config.holdOffCycles (⟨shown, .respond, 0⟩ : Port).drawn ∧
      (⟨shown, .respond, 0⟩ : Port).phase = .respond :=
  ⟨fun _ h => (List.eq_of_mem_replicate h) ▸ rfl, List.length_replicate, rfl⟩

end Sys2Proof.Tests
end

section
/-! The statements about the state (10_state.md): what an instruction and a step do to the two STATUS flags, the invariant
of R26 and R27, reset, and what the results of a command depend on. -/

namespace Sys2Proof

open Sys2Proof.Machine

/-! ### The two flags under one instruction -/

/-- R19 for one instruction. -/
theorem effect_pktValid_iff (i : Instr) (s : State) :
    (effect i s).pktValid = true ↔ s.pktValid = true ∨ i = .build ∨ i = .encodeBuild := by
  cases i <;> simp [effect]

/-- R20 for one instruction. -/
theorem effect_illegal_iff (i : Instr) (s : State) :
    (effect i s).illegal = true ↔
      (∃ c, i = .cmdRsvd c) ∨ (s.illegal = true ∧ ∀ d, i = .wrStatus d → d.getLsbD 1 = false) := by
  cases i <;> simp [effect, and_comm]

/-- Settles O42: a step is nothing, a reset or an instruction, and R19 holds of each instruction. -/
theorem pktValidChangesOnlyByBuildAndReset : Obligations.PktValidChangesOnlyByBuildAndReset := by
  refine ⟨fun s => ⟨_, _, exec_eq .build s, rfl, exec_eq .encodeBuild s, rfl⟩, fun s t h => ?_⟩
  obtain ⟨-, rfl⟩ | ⟨rest, hhost, rfl⟩ | ⟨x, rest, hhost, rfl⟩ := step_cases h
  · exact ⟨fun h0 h1 => by simp [h0] at h1, fun h1 h0 => by simp [h1] at h0⟩
  · exact ⟨fun _ h1 => by simp at h1, fun _ _ => ⟨rest, hhost⟩⟩
  · refine ⟨fun h0 h1 => ⟨x, rest, hhost, ?_⟩, fun h1 h0 => ?_⟩
    · simpa [effect_pktValid_iff, h0] using h1
    · simp [(effect_pktValid_iff (decode x) { s with host := rest }).mpr (.inl h1)] at h0

/-- Settles O43: a step is nothing, a reset or an instruction, and R20 holds of each instruction. -/
theorem illegalChangesOnlyByRsvdClearAndReset : Obligations.IllegalChangesOnlyByRsvdClearAndReset := by
  refine ⟨fun c s => ⟨_, exec_eq (.cmdRsvd c) s, rfl⟩,
    fun d s hd => ⟨_, exec_eq (.wrStatus d) s, by simp [effect, hd]⟩,
    fun s rest hhost => ⟨{ s with host := rest }.resetInput, by simp [step, hhost], rfl⟩, fun s t h => ?_⟩
  obtain ⟨-, rfl⟩ | ⟨rest, hhost, rfl⟩ | ⟨x, rest, hhost, rfl⟩ := step_cases h
  · exact ⟨fun h0 h1 => by simp [h0] at h1, fun h1 h0 => by simp [h1] at h0⟩
  · exact ⟨fun _ h1 => by simp at h1, fun _ _ => .inl ⟨rest, hhost⟩⟩
  · refine ⟨fun h0 h1 => ?_, fun h1 h0 => .inr ?_⟩
    · obtain ⟨c, hc⟩ : ∃ c, decode x = .cmdRsvd c := by simpa [effect_illegal_iff, h0] using h1
      exact ⟨x, rest, c, hhost, hc⟩
    · have hclear := mt (effect_illegal_iff (decode x) { s with host := rest }).mpr (by simpa using h0)
      obtain ⟨d, hdec, hd⟩ : ∃ d, decode x = .wrStatus d ∧ d.getLsbD 1 = true := by
        simpa [h1] using (not_or.mp hclear).2
      exact ⟨x, rest, d, hhost, hdec, hd⟩

/-! ### The invariant of R26 and R27 -/

/-- Bits 31:14 of a word up to 9999 are 0. -/
theorem extract_high_eq_zero {v : Word} (h : v.toNat ≤ 9999) : v.extractLsb' 14 18 = 0 := by
  apply BitVec.eq_of_toNat_eq
  simp only [BitVec.extractLsb'_toNat, Nat.shiftRight_eq_div_pow, BitVec.ofNat_eq_ofNat, BitVec.toNat_ofNat]
  omega

/-- ENCODE stores the scaled value itself: 14 bits hold it (R26). -/
theorem encodeBody_scaled_toNat (s : State) : s.encodeBody.scaled.toNat = scale s.temp := by
  have hle := scale_le s.temp
  simp only [State.encodeBody_scaled, BitVec.toNat_setWidth, BitVec.toNat_ofNat]
  omega

/-- R88: whatever the digit bytes, the packet is well formed. -/
theorem packet_wellFormed (d : Vector Byte 4) : WellFormedPacket (packet d) := by
  have hzero : ∀ i : Fin 65, 14 ≤ i.val → (packet d)[i] = 0x00 := by
    intro i hi
    rw [Fin.getElem_fin, packet_get, List.getElem_append_right hi]
    exact List.getElem_replicate _
  refine ⟨?_, ?_, ?_, ?_, ?_, ?_, ?_, ?_, ?_, ?checksum, hzero⟩
  case checksum =>
    rw [packet_get, packet_toList]
    simp [List.range_succ]
    omega
  all_goals rw [packet_get]; rfl

/-- The invariant speaks of `SCALED`, `PKT_VALID` and the packet only. -/
theorem Inv.of_same_data {s t : State} (h : Inv s) (hscaled : t.scaled = s.scaled) (hvalid : t.pktValid = s.pktValid)
    (hpkt : t.pkt = s.pkt) : Inv t := by
  obtain ⟨hhigh, hle, hzero, hwf⟩ := h
  constructor <;> simpa only [hscaled, hvalid, hpkt]

theorem Inv.encodeBody {s : State} (h : Inv s) : Inv s.encodeBody :=
  have hle : s.encodeBody.scaled.toNat ≤ 9999 := encodeBody_scaled_toNat s ▸ scale_le s.temp
  ⟨extract_high_eq_zero hle, hle, h.pkt_zero, h.pkt_wf⟩

theorem Inv.buildBody {s : State} (h : Inv s) : Inv s.buildBody :=
  ⟨h.scaled_high, h.scaled_le, fun hvalid => by simp at hvalid, fun _ => packet_wellFormed _⟩

/-- Every instruction keeps the invariant. -/
theorem Inv.effect {s : State} (h : Inv s) (i : Instr) : Inv (effect i s) := by
  cases i with
  | encode => exact h.encodeBody
  | build => exact h.buildBody
  | encodeBuild => exact h.encodeBody.buildBody
  | wrStatus d =>
    exact h.of_same_data (State.clearIllegal_scaled d s) (State.clearIllegal_pktValid d s) (State.clearIllegal_pkt d s)
  | _ => exact h.of_same_data rfl rfl rfl

/-- The reset input establishes the invariant, from every state. -/
theorem inv_resetInput (s : State) : Inv s.resetInput :=
  ⟨extract_high_eq_zero (Nat.zero_le _), Nat.zero_le _, fun _ i => by simp, fun hvalid => by simp at hvalid⟩

/-- Every step keeps the invariant. -/
theorem Inv.step {s t : State} (h : Inv s) (hstep : Machine.step s = .next t) : Inv t := by
  obtain ⟨-, rfl⟩ | ⟨rest, -, rfl⟩ | ⟨x, rest, -, rfl⟩ := step_cases hstep
  · exact h
  · exact inv_resetInput _
  · have hrest : Inv { s with host := rest } := h.of_same_data rfl rfl rfl
    exact (hrest.effect (decode x)).of_same_data rfl rfl rfl

theorem Reachable.inv {s : State} (h : Reachable s) : Inv s := by
  induction h with
  | reset inputs => exact inv_resetInput { State.reset with host := inputs }
  | step _ hstep ih => exact ih.step hstep

/-- R27: the header byte tells whether a packet has been built. -/
theorem Inv.header_iff {s : State} (h : Inv s) : s.pkt[1] = 0x3A ↔ s.pktValid = true := by
  cases hvalid : s.pktValid with
  | false =>
    have hzero : s.pkt[1] = 0x00 := h.pkt_zero hvalid 1
    simp [hzero]
  | true =>
    obtain ⟨-, hheader, -⟩ := h.pkt_wf hvalid
    simp [hheader]

/-- Settles O47, by the invariant: reset establishes it and every step keeps it. -/
theorem reachableStatesMeetTheInvariant : Obligations.ReachableStatesMeetTheInvariant := fun _ h =>
  ⟨h.inv.scaled_high, h.inv.scaled_le, h.inv.pkt_zero, h.inv.pkt_wf, h.inv.header_iff⟩

/-! ### Reset, and what the commands read -/

/-- Settles O9, register by register. -/
theorem resetLeavesEveryRegisterZero : Obligations.ResetLeavesEveryRegisterZero :=
  ⟨rfl, rfl, rfl, rfl, rfl, fun i => by simp [State.reset]⟩

/-- Settles O44: each result field of a command is written as a function of its operand register. -/
theorem commandResultsDependOnlyOnTheirOperand : Obligations.CommandResultsDependOnlyOnTheirOperand := by
  refine ⟨fun s s' htemp => ?encode, fun s s' hdigits => ?build, fun s s' htemp => ?encodeBuild⟩
  case encode =>
    exact ⟨_, _, exec_eq .encode s, exec_eq .encode s', by simp [effect, htemp], by simp [effect, htemp]⟩
  case build =>
    exact ⟨_, _, exec_eq .build s, exec_eq .build s', by simp [effect, hdigits], rfl⟩
  case encodeBuild =>
    exact ⟨_, _, exec_eq .encodeBuild s, exec_eq .encodeBuild s', by simp [effect, htemp], by simp [effect, htemp],
      by simp [effect, htemp], rfl⟩

end Sys2Proof
end

section
/-! The statements about the register space (20_memory.md): what a read of each slot of the packet window answers. -/

namespace Sys2Proof

open Sys2Proof.Machine

/-! ### Reads by slot -/

/-- R92: no read changes a register. -/
theorem effect_decodeRead (slot : Slot) (ign : Word) (s : State) : effect (decodeRead slot ign) s = s := by
  unfold decodeRead
  split_ifs <;> rfl

/-- A read transaction changes only the response, to the data of the row its slot selects. -/
theorem step_read (s : State) (slot : Slot) (ign : Word) :
    step (s.withRequest (T39.ofFields false slot ign)) =
      .next { s with rsp := some (rdataOf (decodeRead slot ign) s) } := by
  rw [step_withRequest, exec_eq, decode_ofFields, if_neg Bool.false_ne_true, effect_decodeRead]
  rfl

/-- The slots with `waddr[5:4] = 01` are 16 to 31 (R55). -/
theorem extract_waddr_eq_one_iff (slot : Slot) :
    slot.extractLsb' 4 2 = 1 ↔ 16 ≤ slot.toNat ∧ slot.toNat ≤ 31 := by
  have hlt := slot.isLt
  rw [← BitVec.toNat_inj, BitVec.extractLsb'_toNat, Nat.shiftRight_eq_div_pow]
  simp only [BitVec.ofNat_eq_ofNat, BitVec.toNat_ofNat]
  omega

/-- A read of slots 16 to 31 is the RD_PKT row of that window word (R55). -/
theorem decodeRead_window {slot : Slot} (hlo : 16 ≤ slot.toNat) (hhi : slot.toNat ≤ 31) (ign : Word) :
    decodeRead slot ign = .rdPkt (slot.extractLsb' 0 4) ign := by
  have hne : ∀ {a : Slot}, a.toNat < 16 → slot ≠ a := by
    rintro a ha rfl
    omega
  rw [decodeRead, if_neg (hne (by decide)), if_neg (hne (by decide)), if_neg (hne (by decide)), if_neg (hne (by decide)),
    if_pos ((extract_waddr_eq_one_iff slot).mpr ⟨hlo, hhi⟩)]

/-- A read of slot 32 is the RD_PKT16 row (R55). -/
theorem decodeRead_lastWindow (ign : Word) : decodeRead 32 ign = .rdPkt16 ign := rfl

/-- The window word a slot from 16 to 31 names: `waddr[3:0]` is the slot less 16. -/
theorem toNat_windowIndex {slot : Slot} (hlo : 16 ≤ slot.toNat) (hhi : slot.toNat ≤ 31) :
    (slot.extractLsb' 0 4).toNat = slot.toNat - 16 := by
  rw [BitVec.extractLsb'_toNat, Nat.shiftRight_zero]
  omega

/-! ### The bytes of a window word -/

/-- Byte `j` of a packed word is in bits 8j+7:8j (R38). -/
theorem extract_packBytes_get (b : Vector Byte 4) {j : Nat} (hj : j < 4) :
    (packBytes b).extractLsb' (8 * j) 8 = b[j] := by
  obtain ⟨h0, h1, h2, h3⟩ := extract_packBytes b[0] b[1] b[2] b[3]
  match j, hj with
  | 0, _ => exact h0
  | 1, _ => exact h1
  | 2, _ => exact h2
  | 3, _ => exact h3

/-- Byte `j` of window word `w` is packet byte `4w + j`, which exists (R36). -/
theorem extract_pktWord (s : State) (w : BitVec 4) {j : Nat} (hj : j < 4) :
    (s.pktWord w).extractLsb' (8 * j) 8 = s.pkt[4 * w.toNat + j]?.getD 0x00 := by
  have hw := w.isLt
  rw [State.pktWord, extract_packBytes_get _ hj, Vector.getElem?_eq_getElem (by omega), Option.getD_some]
  match j with
  | 0 | 1 | 2 | 3 => rfl

/-- Byte 0 of window word 16 is packet byte 64, and the rest of that word is zero (R36). -/
theorem extract_pktLastWord (s : State) (j : Nat) :
    s.pktLastWord.extractLsb' (8 * j) 8 = s.pkt[64 + j]?.getD 0x00 := by
  cases j with
  | zero =>
    refine extract_eq_byte fun i hi => ?_
    rw [State.pktLastWord, zextByte, BitVec.getLsbD_setWidth, Nat.mul_zero, Nat.zero_add, decide_eq_true (by omega),
      Bool.true_and]
    rfl
  | succ j =>
    rw [Vector.getElem?_eq_none (by omega), Option.getD_none]
    refine extract_eq_byte fun i hi => ?_
    rw [State.pktLastWord, zextByte, BitVec.getLsbD_setWidth, BitVec.getLsbD_of_ge s.pkt[64] _ (by omega), Bool.and_false]
    exact BitVec.getLsbD_zero.symm

/-- Settles O36: slots 16 to 31 answer window words 0 to 15, all of packet bytes, and slot 32 answers the last. -/
theorem windowShowsEachPacketByteOnce : Obligations.WindowShowsEachPacketByteOnce := by
  intro s slot hlo hhi
  refine ⟨_, step_read s slot 0, fun j hj => ?_⟩
  obtain hlt | heq := hhi.lt_or_eq
  · have hwindow : slot.toNat ≤ 31 := by omega
    rw [decodeRead_window hlo hwindow, ← toNat_windowIndex hlo hwindow]
    exact extract_pktWord s _ hj
  · obtain rfl : slot = 32 := BitVec.eq_of_toNat_eq heq
    rw [decodeRead_lastWindow]
    exact extract_pktLastWord s j

end Sys2Proof
end

section
/-! The statements about the encoding (30_encoding.md): the transaction map of R55, and the match and mask rows of R56
tested in the order of R58. -/

namespace Sys2Proof

open Sys2Proof.Machine

/-! ### The decoder on the fields of a transaction -/

/-- A command word other than the three commands is reserved (R54). -/
theorem decodeCommand_reserved {c : Word} (h1 : c ≠ 1) (h2 : c ≠ 2) (h3 : c ≠ 3) : decodeCommand c = .cmdRsvd c := by
  rw [decodeCommand, if_neg h1, if_neg h2, if_neg h3]

/-- A write to a slot that is no writable register is ignored (R104). -/
theorem decodeWrite_razWi {slot : Slot} (h0 : slot ≠ 0) (h1 : slot ≠ 1) (h3 : slot ≠ 3) (h4 : slot ≠ 4) (d : Word) :
    decodeWrite slot d = .razWi true slot d := by
  rw [decodeWrite, if_neg h0, if_neg h1, if_neg h3, if_neg h4]

/-- A read of a slot that is no readable register and not in the packet window answers zero (R104). -/
theorem decodeRead_razWi {slot : Slot} (h0 : slot ≠ 0) (h1 : slot ≠ 1) (h2 : slot ≠ 2) (h4 : slot ≠ 4)
    (hwindow : ¬ (16 ≤ slot.toNat ∧ slot.toNat ≤ 31)) (h32 : slot ≠ 32) (ign : Word) :
    decodeRead slot ign = .razWi false slot ign := by
  rw [decodeRead, if_neg h0, if_neg h1, if_neg h2, if_neg h4, if_neg (mt (extract_waddr_eq_one_iff slot).mp hwindow),
    if_neg h32]

/-- The RD_PKT row with its window word as a number: `w = waddr - 16`. -/
theorem decodeRead_window_sub {slot : Slot} (hlo : 16 ≤ slot.toNat) (hhi : slot.toNat ≤ 31) (ign : Word) :
    decodeRead slot ign = .rdPkt (BitVec.ofNat 4 (slot.toNat - 16)) ign := by
  rw [decodeRead_window hlo hhi, ← toNat_windowIndex hlo hhi, BitVec.ofNat_toNat, BitVec.setWidth_eq]

/-- The slots RAZ_WI covers on a write are no writable register. -/
theorem decodeWrite_razWi_of_range {slot : Slot} (h : slot = 2 ∨ 5 ≤ slot.toNat) (d : Word) :
    decodeWrite slot d = .razWi true slot d := by
  obtain rfl | hge := h
  · rfl
  · have hne {a : Slot} (ha : a.toNat < 5) : slot ≠ a := ne_of_apply_ne BitVec.toNat (by omega)
    exact decodeWrite_razWi (hne (by decide)) (hne (by decide)) (hne (by decide)) (hne (by decide)) d

/-- The slots RAZ_WI covers on a read are no readable register and lie outside the packet window. -/
theorem decodeRead_razWi_of_range {slot : Slot}
    (h : slot = 3 ∨ (5 ≤ slot.toNat ∧ slot.toNat ≤ 15) ∨ 33 ≤ slot.toNat) (ign : Word) :
    decodeRead slot ign = .razWi false slot ign := by
  obtain rfl | hrange := h
  · rfl
  · have hne {a : Slot} (ha : a.toNat < 5 ∨ a.toNat = 32) : slot ≠ a := ne_of_apply_ne BitVec.toNat (by omega)
    exact decodeRead_razWi (hne (by decide)) (hne (by decide)) (hne (by decide)) (hne (by decide)) (by omega)
      (hne (by decide)) ign

/-- Settles O6: the rows with fixed fields compute, and the ranges of slots and command words are the lemmas above. -/
theorem transactionMapDecodesByFields : Obligations.TransactionMapDecodesByFields := by
  simp only [Obligations.TransactionMapDecodesByFields, decode_ofFields, if_true, Bool.false_eq_true, if_false]
  refine ⟨rfl, rfl, rfl, fun slot d => ⟨rfl, rfl, rfl, rfl, rfl, rfl, rfl, ?window, rfl, ?reserved, ?razRead, ?razWrite⟩⟩
  case window => exact fun ⟨hlo, hhi⟩ => decodeRead_window_sub hlo hhi d
  case reserved => exact fun h1 h2 h3 => decodeCommand_reserved h1 h2 h3
  case razRead => exact fun h => decodeRead_razWi_of_range h d
  case razWrite => exact fun h => decodeWrite_razWi_of_range h d

/-! ### The match and mask rows on the fields of a transaction -/

/-- A row whose mask takes `we` and `waddr`: one kind of transaction at one slot. -/
def slotRow (m : Mnemonic) (we : Bool) (slot : Slot) (priority : Nat) : Row :=
  ⟨m, T39.ofFields we slot 0, T39.ofFields true (.allOnes 6) 0, priority⟩

/-- A row whose mask takes the whole word: one command word written to slot 3. -/
def commandRow (m : Mnemonic) (c : Word) : Row :=
  ⟨m, T39.ofFields true 3 c, T39.ofFields true (.allOnes 6) (.allOnes 32), 1⟩

/-- The RD_PKT row, whose mask takes `we` and `waddr[5:4]`. -/
def windowRow : Row := ⟨.RD_PKT, T39.ofFields false 16 0, T39.ofFields true 48 0, 1⟩

theorem priorityOneRows_eq :
    priorityOneRows =
      [commandRow .ENCODE 1, commandRow .BUILD 2, commandRow .ENCODE_BUILD 3, slotRow .WR_TEMP true 0 1,
       slotRow .WR_DIGITS true 1 1, slotRow .WR_STATUS true 4 1, slotRow .RD_TEMP false 0 1,
       slotRow .RD_DIGITS false 1 1, slotRow .RD_SCALED false 2 1, slotRow .RD_STATUS false 4 1, windowRow,
       slotRow .RD_PKT16 false 32 1] := by
  decide

theorem laterRows_eq : laterRows = [slotRow .CMD_RSVD true 3 2, ⟨.RAZ_WI, 0, 0, 3⟩] := by
  decide

theorem slotRow_selects_iff (m : Mnemonic) (we : Bool) (slot : Slot) (p : Nat) (w : Bool) (a : Slot) (d : Word) :
    (slotRow m we slot p).selects (T39.ofFields w a d) = true ↔ w = we ∧ a = slot := by
  rw [slotRow, Row.selects, decide_eq_true_eq, T39.and_eq_iff, Bool.and_true, BitVec.and_allOnes]
  simp

theorem commandRow_selects_iff (m : Mnemonic) (c : Word) (w : Bool) (a : Slot) (d : Word) :
    (commandRow m c).selects (T39.ofFields w a d) = true ↔ w = true ∧ a = 3 ∧ d = c := by
  rw [commandRow, Row.selects, decide_eq_true_eq, T39.and_eq_iff, Bool.and_true, BitVec.and_allOnes, BitVec.and_allOnes]

/-- The mask of the RD_PKT row on `waddr` selects slots 16 to 31 (R56). -/
theorem and_windowMask_eq_iff (slot : Slot) : slot &&& 48 = 16 ↔ 16 ≤ slot.toNat ∧ slot.toNat ≤ 31 := by
  revert slot
  decide

theorem windowRow_selects_iff (w : Bool) (a : Slot) (d : Word) :
    windowRow.selects (T39.ofFields w a d) = true ↔ w = false ∧ 16 ≤ a.toNat ∧ a.toNat ≤ 31 := by
  rw [windowRow, Row.selects, decide_eq_true_eq, T39.and_eq_iff, and_windowMask_eq_iff]
  simp

/-- What holds of every priority 1 row that selects a word holds row by row, under the row's fields (R55). -/
theorem forall_selecting_priorityOne_iff (P : Mnemonic → Prop) (w : Bool) (a : Slot) (d : Word) :
    (∀ r ∈ priorityOneRows, r.selects (T39.ofFields w a d) = true → P r.mnemonic) ↔
      (w = true ∧ a = 3 ∧ d = 1 → P .ENCODE) ∧ (w = true ∧ a = 3 ∧ d = 2 → P .BUILD) ∧
      (w = true ∧ a = 3 ∧ d = 3 → P .ENCODE_BUILD) ∧ (w = true ∧ a = 0 → P .WR_TEMP) ∧
      (w = true ∧ a = 1 → P .WR_DIGITS) ∧ (w = true ∧ a = 4 → P .WR_STATUS) ∧ (w = false ∧ a = 0 → P .RD_TEMP) ∧
      (w = false ∧ a = 1 → P .RD_DIGITS) ∧ (w = false ∧ a = 2 → P .RD_SCALED) ∧ (w = false ∧ a = 4 → P .RD_STATUS) ∧
      (w = false ∧ 16 ≤ a.toNat ∧ a.toNat ≤ 31 → P .RD_PKT) ∧ (w = false ∧ a = 32 → P .RD_PKT16) := by
  simp only [priorityOneRows_eq, List.forall_mem_cons, List.not_mem_nil, false_implies, implies_true, and_true,
    commandRow_selects_iff, slotRow_selects_iff, windowRow_selects_iff]
  rfl

/-- A priority 1 row selects only words that decode to its instruction. -/
theorem mnemonic_decode_of_selects (x : T39) :
    ∀ r ∈ priorityOneRows, r.selects x = true → (decode x).mnemonic = r.mnemonic := by
  revert x
  refine T39.forall_fields.mpr fun w a d => ?_
  rw [forall_selecting_priorityOne_iff (fun m => (decode (T39.ofFields w a d)).mnemonic = m), decode_ofFields]
  refine ⟨?encode, ?build, ?encodeBuild, ?_, ?_, ?_, ?_, ?_, ?_, ?_, ?window, ?_⟩
  case encode | build | encodeBuild =>
    rintro ⟨rfl, rfl, rfl⟩
    rfl
  case window =>
    rintro ⟨rfl, hlo, hhi⟩
    rw [if_neg Bool.false_ne_true, decodeRead_window hlo hhi]
    rfl
  all_goals
    rintro ⟨rfl, rfl⟩
    rfl

/-- A word that no priority 1 row selects decodes to CMD_RSVD at slot 3 written, and to RAZ_WI otherwise. -/
theorem decode_of_no_priorityOne {w : Bool} {a : Slot} {d : Word}
    (h : ∀ r ∈ priorityOneRows, ¬ r.selects (T39.ofFields w a d) = true) :
    decode (T39.ofFields w a d) = if w = true ∧ a = 3 then .cmdRsvd d else .razWi w a d := by
  obtain ⟨he, hb, heb, hwt, hwd, hws, hrt, hrd, hrs, hrst, hwindow, hlast⟩ :=
    (forall_selecting_priorityOne_iff (fun _ => False) w a d).mp h
  rw [decode_ofFields]
  cases w with
  | false =>
    exact decodeRead_razWi (hrt ⟨rfl, ·⟩) (hrd ⟨rfl, ·⟩) (hrs ⟨rfl, ·⟩) (hrst ⟨rfl, ·⟩) (hwindow ⟨rfl, ·⟩)
      (hlast ⟨rfl, ·⟩) d
  | true =>
    by_cases h3 : a = 3
    · subst h3
      exact decodeCommand_reserved (he ⟨rfl, rfl, ·⟩) (hb ⟨rfl, rfl, ·⟩) (heb ⟨rfl, rfl, ·⟩)
    · rw [if_pos rfl, if_neg fun h => h3 h.2]
      exact decodeWrite_razWi (hwt ⟨rfl, ·⟩) (hwd ⟨rfl, ·⟩) h3 (hws ⟨rfl, ·⟩) d

/-- The rows of priority 2 and 3: CMD_RSVD takes the writes to slot 3, and RAZ_WI the rest (R58). -/
theorem find_laterRows (w : Bool) (a : Slot) (d : Word) :
    (laterRows.find? (fun r => r.selects (T39.ofFields w a d))).map Row.mnemonic =
      some (if w = true ∧ a = 3 then .CMD_RSVD else .RAZ_WI) := by
  have hrsvd := slotRow_selects_iff .CMD_RSVD true 3 2 w a d
  rw [laterRows_eq, List.find?_cons]
  split_ifs with h
  · rw [hrsvd.mpr h]
    rfl
  · have hraz : (⟨.RAZ_WI, 0, 0, 3⟩ : Row).selects (T39.ofFields w a d) = true := decide_eq_true BitVec.and_zero
    rw [Bool.eq_false_iff.mpr (mt hrsvd.mp h), List.find?_cons, hraz]
    rfl

/-- Any order of the priority 1 rows, with the later rows after them, selects the row of the decoded instruction. -/
theorem mnemonic_find_rows {rows : List Row} (hperm : rows.Perm priorityOneRows) (x : T39) :
    ((rows ++ laterRows).find? (fun r => r.selects x)).map Row.mnemonic = some (decode x).mnemonic := by
  rw [List.find?_append]
  cases hfind : rows.find? (fun r => r.selects x) with
  | some r =>
    have hmem : r ∈ priorityOneRows := hperm.mem_iff.mp (List.mem_of_find?_eq_some hfind)
    have hsel : r.selects x = true := List.find?_some (p := fun r : Row => r.selects x) hfind
    rw [mnemonic_decode_of_selects x r hmem hsel]
    rfl
  | none =>
    have hnone : ∀ r ∈ priorityOneRows, ¬ r.selects x = true := fun r hr =>
      List.find?_eq_none.mp hfind r (hperm.mem_iff.mpr hr)
    rw [← x.ofFields_fields] at hnone ⊢
    rw [Option.none_or, find_laterRows, decode_of_no_priorityOne hnone]
    split <;> rfl

/-- Settles O4: a priority 1 row selects only words of its instruction, so their order does not matter; the words left
over are those of the later rows. -/
theorem rowsInAnyOrderSelectTheDecodedInstruction : Obligations.RowsInAnyOrderSelectTheDecodedInstruction := by
  refine fun x => ⟨fun rows hperm => mnemonic_find_rows hperm x, fun s => ?_⟩
  have hstep := (step_withRequest s x).trans (exec_eq (decode x) s)
  exact ⟨_, hstep, fun o ho => ho.symm.trans hstep⟩

end Sys2Proof
end

section
/-! The statements about the digit encoder (40_encoder.md): the scaler, the digits of a scaled value, their display with
blanked leading positions, and ENCODE. -/

namespace Sys2Proof

open Sys2Proof.Machine

/-! ### The scaler -/

/-- R65, on the integers. -/
theorem coe_scale (temp : Word) : (scale temp : Int) = min (max (temp.toInt / 100) 0) 9999 := by
  simp only [scale, clamp, Config.scaledMin, Config.scaledMax]
  omega

/-- Settles O27, by comparing the clamped quotient with its bounds. -/
theorem scaleSaturatesAtItsThresholds : Obligations.ScaleSaturatesAtItsThresholds := by
  intro temp
  have hscale := coe_scale temp
  refine ⟨?_, ?_, fun hlo hhi => ⟨?_, ?_, ?_⟩, ?_⟩ <;> omega

/-- Ten times the temperature in degrees is `TEMP / 100`, and its floor is the quotient of R65. -/
theorem floor_ten_mul_div_thousand (n : Int) : ⌊10 * ((n : ℚ) / 1000)⌋ = n / 100 := by
  rw [show 10 * ((n : ℚ) / 1000) = n / (100 : ℕ) by push_cast; ring]
  exact Rat.floor_intCast_div_natCast n 100

/-- Settles O26: the clamped value is not negative, so truncation is the floor, and the floor is monotone, so it passes
through both bounds of the clamp. -/
theorem scaleIsTruncatedClampOverTheRationals : Obligations.ScaleIsTruncatedClampOverTheRationals := by
  refine fun temp => ⟨_, rfl, ?_⟩
  rw [if_pos (le_min (le_max_right _ _) (by norm_num)), Int.floor_mono.map_min, Int.floor_mono.map_max,
    floor_ten_mul_div_thousand, coe_scale, Int.floor_zero, Int.floor_ofNat]

/-! ### The digits -/

/-- R68: position `k` holds the digit of weight `10 ^ (3 - k)`. -/
theorem toNat_digitsOf (S : Nat) (k : Fin 4) : (digitsOf S)[k].toNat = S / 10 ^ (3 - k.val) % 10 := by
  have hbyte (n : Nat) : (BitVec.ofNat 8 (n % 10)).toNat = n % 10 := by
    rw [BitVec.toNat_ofNat]
    omega
  match k with
  | 0 => exact hbyte (S / 1000)
  | 1 => exact hbyte (S / 100)
  | 2 => exact hbyte (S / 10)
  | 3 => exact (hbyte S).trans (by simp)

theorem toNat_digitsOf_le (S : Nat) (k : Fin 4) : (digitsOf S)[k].toNat ≤ 9 := by
  rw [toNat_digitsOf]
  omega

/-- Settles O28, digit by digit. -/
theorem digitsRebuildTheScaledValue : Obligations.DigitsRebuildTheScaledValue := by
  intro S hS
  have h0 : (digitsOf S)[0].toNat = S / 1000 % 10 := toNat_digitsOf S 0
  have h1 : (digitsOf S)[1].toNat = S / 100 % 10 := toNat_digitsOf S 1
  have h2 : (digitsOf S)[2].toNat = S / 10 % 10 := toNat_digitsOf S 2
  have h3 : (digitsOf S)[3].toNat = S % 10 := (toNat_digitsOf S 3).trans (by simp)
  exact ⟨h0, h1, h2, h3, toNat_digitsOf_le S, by omega, by omega⟩

/-! ### The display -/

/-- R69: the loop blanks a position other than the last when `S` is below the weight of its digit. -/
theorem display_get {S : Nat} (hS : S ≤ 9999) (k : Fin 4) :
    (display S)[k] = if k < 3 ∧ S < 10 ^ (3 - k.val) then 0x20 else (digitsOf S)[k] := by
  rw [display_eq hS]
  match k with
  | 0 =>
    have hdigit : S / 1000 % 10 = S / 1000 := by omega
    simp [digitsOf, hdigit]
  | 1 => simp [digitsOf]
  | 2 => simp [digitsOf]
  | 3 => simp [digitsOf]

/-- Settles O29: the position of weight `10 ^ (3 - k)` is among the first `n` exactly when `S` is below that weight. -/
theorem blankingLoopBlanksByRange : Obligations.BlankingLoopBlanksByRange := by
  intro S hS n hn k
  have hcount : (0 < n ↔ S < 1000) ∧ (1 < n ↔ S < 100) ∧ (2 < n ↔ S < 10) ∧ ¬ 3 < n := by
    subst hn
    split_ifs <;> omega
  obtain ⟨h0, h1, h2, h3⟩ := hcount
  rw [display_get hS]
  refine if_congr ?_ rfl rfl
  match k with
  | 0 => simp [h0]
  | 1 => simp [h1]
  | 2 => simp [h2]
  | 3 => simp [h3]

/-- A displayed code is the blank exactly in a blanked position: a digit is never the blank. -/
theorem display_eq_blank_iff {S : Nat} (hS : S ≤ 9999) (k : Fin 4) :
    (display S)[k] = 0x20 ↔ k < 3 ∧ S < 10 ^ (3 - k.val) := by
  rw [display_get hS]
  refine ite_eq_left_iff.trans (not_imp_comm.trans ⟨fun h => h fun hdigit => ?_, fun h _ => h⟩)
  have hle := toNat_digitsOf_le S k
  simp [hdigit] at hle

/-- A displayed code as a number. -/
theorem toNat_display {S : Nat} (hS : S ≤ 9999) (k : Fin 4) :
    (display S)[k].toNat = if k < 3 ∧ S < 10 ^ (3 - k.val) then 0x20 else S / 10 ^ (3 - k.val) % 10 := by
  rw [display_get hS, apply_ite BitVec.toNat, toNat_digitsOf]
  rfl

theorem toNat_display_of_ne_blank {S : Nat} (hS : S ≤ 9999) {k : Fin 4} (h : (display S)[k] ≠ 0x20) :
    (display S)[k].toNat = S / 10 ^ (3 - k.val) % 10 := by
  rw [toNat_display hS, if_neg (mt (display_eq_blank_iff hS k).mpr h)]

theorem display_isDigitCode {S : Nat} (hS : S ≤ 9999) (k : Fin 4) : IsDigitCode (display S)[k] := by
  rw [display_get hS]
  split
  · exact .inr rfl
  · exact .inl (toNat_digitsOf_le S k)

/-- The weights fall from left to right, so left of a blanked position all are blanked. -/
theorem display_blanks_lead {S : Nat} (hS : S ≤ 9999) {j k : Fin 4} (hjk : j < k) (hk : (display S)[k] = 0x20) :
    (display S)[j] = 0x20 := by
  rw [display_eq_blank_iff hS] at hk ⊢
  have hpow : 10 ^ (3 - k.val) ≤ 10 ^ (3 - j.val) := Nat.pow_le_pow_right (by decide) (by omega)
  exact ⟨hjk.trans hk.1, hk.2.trans_le hpow⟩

/-- A nonzero scaled value has a leading position, where the quotient by the weight is the digit itself. -/
theorem exists_leading_position {S : Nat} (hpos : 1 ≤ S) (hS : S ≤ 9999) :
    ∃ j : Fin 4, 1 ≤ S / 10 ^ (3 - j.val) ∧ S / 10 ^ (3 - j.val) ≤ 9 := by
  obtain h | h | h | h : 1000 ≤ S ∨ (100 ≤ S ∧ S < 1000) ∨ (10 ≤ S ∧ S < 100) ∨ S < 10 := by omega
  · exact ⟨0, (by omega : 1 ≤ S / 1000 ∧ S / 1000 ≤ 9)⟩
  · exact ⟨1, (by omega : 1 ≤ S / 100 ∧ S / 100 ≤ 9)⟩
  · exact ⟨2, (by omega : 1 ≤ S / 10 ∧ S / 10 ≤ 9)⟩
  · exact ⟨3, (by omega : 1 ≤ S / 1 ∧ S / 1 ≤ 9)⟩

/-- A displayed zero left of the last position follows a nonzero digit: the leading one, which stands before it. -/
theorem display_zero_follows_digit {S : Nat} (hS : S ≤ 9999) {k : Fin 4} (hk : k.val ≤ 2)
    (hzero : (display S)[k] = 0x00) :
    ∃ j < k, 1 ≤ (display S)[j].toNat ∧ (display S)[j].toNat ≤ 9 := by
  have hshown : (display S)[k] ≠ 0x20 := by simp [hzero]
  have hdigit : S / 10 ^ (3 - k.val) % 10 = 0 := by rw [← toNat_display_of_ne_blank hS hshown, hzero]; rfl
  have hquot : 1 ≤ S / 10 ^ (3 - k.val) :=
    Nat.div_pos (not_lt.mp fun hlt => hshown ((display_eq_blank_iff hS k).mpr ⟨by omega, hlt⟩)) (by positivity)
  obtain ⟨j, hlo, hhi⟩ := exists_leading_position (hquot.trans (Nat.div_le_self _ _)) hS
  have hjshown : (display S)[j] ≠ 0x20 := fun hblank => by
    rw [Nat.div_eq_of_lt ((display_eq_blank_iff hS j).mp hblank).2] at hlo
    omega
  refine ⟨j, not_le.mp fun hkj => ?_, ?_⟩
  · have hmono : S / 10 ^ (3 - k.val) ≤ S / 10 ^ (3 - j.val) :=
      Nat.div_le_div_left (Nat.pow_le_pow_right (by decide) (by omega)) (by positivity)
    omega
  · rw [toNat_display_of_ne_blank hS hjshown]
    omega

/-- The value a displayed code stands for, a blank for 0. -/
def codeValue (b : Byte) : Nat := if b = 0x20 then 0 else b.toNat

/-- The number a display shows. -/
def readDisplay (d : Vector Byte 4) : Nat :=
  1000 * codeValue d[0] + 100 * codeValue d[1] + 10 * codeValue d[2] + codeValue d[3]

theorem codeValue_display {S : Nat} (hS : S ≤ 9999) (k : Fin 4) :
    codeValue (display S)[k] = S / 10 ^ (3 - k.val) % 10 := by
  unfold codeValue
  split
  next hblank => rw [Nat.div_eq_of_lt ((display_eq_blank_iff hS k).mp hblank).2]
  next hshown => exact toNat_display_of_ne_blank hS hshown

theorem readDisplay_display {S : Nat} (hS : S ≤ 9999) : readDisplay (display S) = S := by
  have h0 : codeValue (display S)[0] = S / 1000 % 10 := codeValue_display hS 0
  have h1 : codeValue (display S)[1] = S / 100 % 10 := codeValue_display hS 1
  have h2 : codeValue (display S)[2] = S / 10 % 10 := codeValue_display hS 2
  have h3 : codeValue (display S)[3] = S % 10 := (codeValue_display hS 3).trans (by simp)
  rw [readDisplay, h0, h1, h2, h3]
  omega

theorem display_inj {S S' : Nat} (hS : S ≤ 9999) (hS' : S' ≤ 9999) (h : display S = display S') : S = S' := by
  rw [← readDisplay_display hS, h, readDisplay_display hS']

/-- Settles O30: the codes position by position, and the number a display shows gives `S` back. -/
theorem displaysAreDigitCodesAndInjective : Obligations.DisplaysAreDigitCodesAndInjective := by
  refine ⟨fun S hS => ⟨display_isDigitCode hS, ?last, fun j k => display_blanks_lead hS,
    fun k => display_zero_follows_digit hS⟩, fun S hS S' hS' => display_inj hS hS', ?card⟩
  case last => exact fun hblank => absurd ((display_eq_blank_iff hS 3).mp hblank).1 (lt_irrefl _)
  case card =>
    rw [Finset.card_image_of_injOn, Finset.card_range]
    intro S hS S' hS' h
    rw [Finset.mem_coe, Finset.mem_range] at hS hS'
    exact display_inj (by omega) (by omega) h

/-! ### ENCODE -/

/-- `SCALED <- zext_32(S[13:0])` is `S` itself: 14 bits hold it (R72). -/
theorem encodeBody_scaled_eq (s : State) : s.encodeBody.scaled = BitVec.ofNat 32 (scale s.temp) := by
  rw [← encodeBody_scaled_toNat, BitVec.ofNat_toNat, BitVec.setWidth_eq]

/-- `DIGITS <- {d[3], d[2], d[1], d[0]}` as a number (R72). -/
theorem encodeBody_digits_eq (s : State) : s.encodeBody.digits = BitVec.ofNat 32 ((display (scale s.temp))[0].toNat +
    2 ^ 8 * (display (scale s.temp))[1].toNat + 2 ^ 16 * (display (scale s.temp))[2].toNat +
    2 ^ 24 * (display (scale s.temp))[3].toNat) := by
  rw [← toNat_packBytes, BitVec.ofNat_toNat, BitVec.setWidth_eq]
  rfl

/-- Settles O23: the four codes are those of the display, and the record equation is the frame. -/
theorem encodeWritesScaledAndDigits : Obligations.EncodeWritesScaledAndDigits := by
  refine ⟨by decide, fun s => ?_⟩
  have hcode := toNat_display (scale_le s.temp)
  refine ⟨scale s.temp, (display (scale s.temp))[0].toNat, (display (scale s.temp))[1].toNat,
    (display (scale s.temp))[2].toNat, (display (scale s.temp))[3].toNat, coe_scale s.temp,
    by simpa using hcode 0, by simpa using hcode 1, by simpa using hcode 2, by simpa using hcode 3, ?frame⟩
  case frame =>
    rw [exec_eq, ← encodeBody_scaled_eq, ← encodeBody_digits_eq]
    rfl

end Sys2Proof
end

section
/-! The statements about the packet codec (41_packet.md): the bytes of the frame and its checksum, BUILD, and
ENCODE_BUILD. -/

namespace Sys2Proof

open Sys2Proof.Machine

/-! ### The checksum -/

/-- The running value of the accumulator of R82, from any starting value. -/
theorem toNat_foldl_add (l : List Byte) (acc : Byte) :
    (l.foldl (· + ·) acc).toNat = (acc.toNat + (l.map BitVec.toNat).sum) % 256 := by
  induction l generalizing acc with
  | nil => exact (Nat.mod_eq_of_lt acc.isLt).symm
  | cons b l ih =>
    rw [List.foldl_cons, ih, BitVec.toNat_add, List.map_cons, List.sum_cons]
    omega

/-- R82: dropping each carry out leaves the sum modulo 256. -/
theorem toNat_accumulate (l : List Byte) : (accumulate l).toNat = (l.map BitVec.toNat).sum % 256 := by
  rw [accumulate, toNat_foldl_add, BitVec.ofNat_eq_ofNat, BitVec.toNat_ofNat, Nat.zero_mod, Nat.zero_add]

/-- R82: the bytes may be added in any order. -/
theorem accumulate_perm {l l' : List Byte} (h : l.Perm l') : accumulate l = accumulate l' :=
  BitVec.eq_of_toNat_eq (by rw [toNat_accumulate, toNat_accumulate, (h.map _).sum_eq])

/-- Writing byte 13 does not touch the bytes the checksum is taken over. -/
theorem checksumBytes_packet (d : Vector Byte 4) : checksumBytes (packet d) = checksumBytes (frame d) := by
  rw [checksumBytes, packet, Vector.toList_set, List.take_set_of_le (by decide), checksumBytes]

/-- R81 on the finished packet. -/
theorem packet_checksum (d : Vector Byte 4) : (packet d)[13] = accumulate ((packet d).toList.take 13) := by
  rw [← checksumBytes, checksumBytes_packet, packet, Vector.getElem_set_self]

theorem toNat_packet_checksum (d : Vector Byte 4) :
    (packet d)[13].toNat = (((packet d).toList.take 13).map BitVec.toNat).sum % 256 := by
  rw [packet_checksum, toNat_accumulate]

/-- R83. -/
theorem packet_checksum_closed (d : Vector Byte 4) : (packet d)[13] = (0xF3 : Byte) + d[0] + d[1] + d[2] + d[3] := by
  rw [packet_checksum, ← checksumBytes, checksumBytes_packet, checksum_eq]

/-- Settles O32: the accumulator by its value as a number, and byte 13 as the accumulator over the bytes before it. -/
theorem checksumAccumulatorIsOrderFree : Obligations.ChecksumAccumulatorIsOrderFree :=
  ⟨toNat_accumulate, fun _ _ => accumulate_perm, fun d _ h => (packet_checksum d).trans (accumulate_perm h.symm)⟩

/-- The largest DigitCode is the blank. -/
theorem IsDigitCode.toNat_le {b : Byte} (h : IsDigitCode b) : b.toNat ≤ 32 := by
  obtain hdigit | rfl := h
  · omega
  · decide

/-- Settles O33: the closed form as a number, and four codes of at most 32. -/
theorem checksumHasItsClosedForm : Obligations.ChecksumHasItsClosedForm := by
  refine fun d => ⟨?closed, fun hcode => ?bound⟩
  case closed =>
    rw [packet_checksum_closed]
    simp only [BitVec.toNat_add, BitVec.ofNat_eq_ofNat, BitVec.toNat_ofNat]
    omega
  case bound =>
    have h0 : d[0].toNat ≤ 32 := (hcode 0).toNat_le
    have h1 : d[1].toNat ≤ 32 := (hcode 1).toNat_le
    have h2 : d[2].toNat ≤ 32 := (hcode 2).toNat_le
    have h3 : d[3].toNat ≤ 32 := (hcode 3).toNat_le
    omega

/-! ### The frame layout -/

/-- R80: the digit bytes stand verbatim in packet bytes 4 to 7. -/
theorem packet_digit (d : Vector Byte 4) (k : Fin 4) : (packet d)[4 + k.val] = d[k] := by
  rw [packet_get]
  match k with
  | 0 | 1 | 2 | 3 => rfl

/-- Settles O31: the fixed bytes are those of a well-formed packet, the others the digit bytes and the checksum. -/
theorem packetHasTheFrameLayout : Obligations.PacketHasTheFrameLayout := by
  intro d
  obtain ⟨h0, h1, h2, h3, h8, h9, h10, h11, h12, -, hzero⟩ := packet_wellFormed d
  exact ⟨h0, h1, h2, h3, packet_digit d, h8, h9, h10, h11, h12, toNat_packet_checksum d, hzero⟩

/-! ### BUILD -/

/-- Settles O24: the packet written out, its last nonzero byte named by the checksum; the record equation is the
frame. -/
theorem buildWritesTheWholePacket : Obligations.BuildWritesTheWholePacket := by
  refine ⟨by decide, fun s => ⟨packet (digitBytes s.digits), (packet (digitBytes s.digits))[13], ?bytes,
    toNat_packet_checksum _, exec_eq .build s⟩⟩
  case bytes =>
    rw [packet_toList, packet_checksum_closed]
    rfl

/-- Settles O35: the packet is a function of `DIGITS`, which BUILD keeps. -/
theorem buildIsIdempotent : Obligations.BuildIsIdempotent := by
  refine ⟨fun s s' hdigits => ⟨_, _, exec_eq .build s, exec_eq .build s', ?same⟩,
    fun s => ⟨_, exec_eq .build s, exec_eq .build _⟩⟩
  case same => simp [effect, hdigits]

/-! ### ENCODE_BUILD -/

/-- The bytes of a word are the bytes it was packed from, for any four bytes (R15, R38). -/
theorem digitBytes_packBytes_vector (b : Vector Byte 4) : digitBytes (packBytes b) = b := by
  have hb : b = #v[b[0], b[1], b[2], b[3]] := by
    ext k hk
    match k, hk with
    | 0, _ | 1, _ | 2, _ | 3, _ => rfl
  rw [hb, digitBytes_packBytes]

/-- R86: ENCODE_BUILD builds the packet of the display that its ENCODE wrote. -/
theorem encodeBuild_pkt (s : State) : s.encodeBody.buildBody.pkt = packet (display (scale s.temp)) := by
  rw [State.buildBody_pkt, State.encodeBody_digits, digitBytes_packBytes_vector]

/-- Settles O25: BUILD acts on the state ENCODE leaves, and ENCODE overwrites `DIGITS` whole. -/
theorem encodeBuildIsEncodeThenBuild : Obligations.EncodeBuildIsEncodeThenBuild :=
  ⟨by decide, fun s => ⟨_, _, exec_eq .encode s, exec_eq .build _, exec_eq .encodeBuild s, rfl, rfl, rfl, rfl, rfl, rfl,
    rfl, fun d => exec_eq .encodeBuild { s with digits := d }⟩⟩

/-- Settles O34: every packet is well formed, and the digit bytes of ENCODE_BUILD's are the display of the scaled
value. -/
theorem builtPacketsAreWellFormed : Obligations.BuiltPacketsAreWellFormed := by
  refine fun s => ⟨⟨_, exec_eq .build s, packet_wellFormed _⟩, _, exec_eq .encodeBuild s, packet_wellFormed _, ?_⟩
  obtain ⟨hcode, hlast, hlead, hzero⟩ := displaysAreDigitCodesAndInjective.1 (scale s.temp) (scale_le s.temp)
  have hdigit := packet_digit (display (scale s.temp))
  have hseven : (packet (display (scale s.temp)))[7] = (display (scale s.temp))[3] := hdigit 3
  simp only [effect, rdataOf, State.respond_pkt, encodeBuild_pkt, hdigit, hseven]
  exact ⟨hcode, hlast, hlead, hzero⟩

/-- R90: what ENCODE_BUILD leaves at a temperature of 23.456. -/
theorem encodeBuild_of_temp_23456 {s : State} (htemp : s.temp = 23456) :
    s.encodeBody.buildBody.scaled = 234 ∧ s.encodeBody.buildBody.pkt = packet #v[0x20, 0x02, 0x03, 0x04] := by
  have hscale : scale 23456 = 234 := by decide
  have hdisplay : display 234 = #v[0x20, 0x02, 0x03, 0x04] := by decide
  constructor
  · rw [State.buildBody_scaled, encodeBody_scaled_eq, htemp, hscale]
    rfl
  · rw [encodeBuild_pkt, htemp, hscale, hdisplay]

/-- Settles O52: the run is WR_TEMP and ENCODE_BUILD, and the checksum of the packet it builds is in closed form. -/
theorem endToEndScenarioBuildsItsPacket : Obligations.EndToEndScenarioBuildsItsPacket := by
  intro s
  have hwrite : decode 0x4000005BA0 = .wrTemp 23456 := by decide
  have hcommand : decode 0x4300000003 = .encodeBuild := by decide
  obtain ⟨hscaled, hpkt⟩ := encodeBuild_of_temp_23456 (s := { s with temp := 23456 }.respond 0) rfl
  refine ⟨({ s with temp := 23456 }.respond 0).encodeBody.buildBody.respond 0, ?run, hscaled, ?digits, ?checksum⟩
  case run =>
    rw [runTransactions_cons, runTransactions_cons, hwrite, hcommand]
    rfl
  case digits =>
    rw [State.respond_pkt, hpkt, packet_toList]
    rfl
  case checksum =>
    simp only [State.respond_pkt, hpkt, packet_checksum_closed]
    rfl

end Sys2Proof
end

section
/-! The statements about the host's accesses (42_host_access.md): the words each access row takes, what an access answers,
and what it changes. -/

namespace Sys2Proof

open Sys2Proof.Machine

/-! ### The words of a row, from its mask -/

/-- The mask 0x7F00000000 leaves the write data free and fixes the kind of transaction and its slot (R56). -/
theorem decode_of_slotMask {x : T39} (we : Bool) (slot : Slot)
    (h : x &&& T39.ofFields true (.allOnes 6) 0 = T39.ofFields we slot 0) :
    decode x = if we then decodeWrite slot x.wdata else decodeRead slot x.wdata := by
  rw [← x.ofFields_fields, T39.and_eq_iff, Bool.and_true, BitVec.and_allOnes] at h
  obtain ⟨hwe, hslot, -⟩ := h
  rw [decode, hwe, hslot]

/-- The mask 0x7000000000 of RD_PKT selects the reads of slots 16 to 31 (R56). -/
theorem read_window_of_mask {x : T39} (h : x &&& 0x7000000000 = 0x1000000000) :
    x.we = false ∧ 16 ≤ x.waddr.toNat ∧ x.waddr.toNat ≤ 31 := by
  rw [← windowRow_selects_iff x.we x.waddr x.wdata, x.ofFields_fields]
  exact decide_eq_true h

/-- The rows of priority 1 and 2 are the priority 1 rows and CMD_RSVD (R58). -/
theorem forall_priority_le_two_iff (P : Row → Prop) :
    (∀ r ∈ opcodeTable, r.priority ≤ 2 → P r) ↔ (∀ r ∈ priorityOneRows, P r) ∧ P (slotRow .CMD_RSVD true 3 2) := by
  have hone : ∀ r ∈ priorityOneRows, r.priority ≤ 2 := by decide
  rw [opcodeTable, List.forall_mem_append, laterRows_eq]
  exact and_congr (forall₂_congr fun r hr => by simp [hone r hr]) (by simp [slotRow])

/-- A read of the slots of no readable register, outside the packet window, is a read RAZ_WI covers (R104). -/
theorem readSlot_unlisted_iff (a : Slot) :
    (a ≠ 0 ∧ a ≠ 1 ∧ a ≠ 2 ∧ a ≠ 4 ∧ ¬ (16 ≤ a.toNat ∧ a.toNat ≤ 31) ∧ a ≠ 32) ↔
      a = 3 ∨ (5 ≤ a.toNat ∧ a.toNat ≤ 15) ∨ 33 ≤ a.toNat := by
  revert a
  decide

/-- A write to the slots of no writable register is a write RAZ_WI covers (R104). -/
theorem writeSlot_unlisted_iff (a : Slot) : a ≠ 0 ∧ a ≠ 1 ∧ a ≠ 4 ∧ a ≠ 3 ↔ a = 2 ∨ 5 ≤ a.toNat := by
  revert a
  decide

/-- The words that no row of priority 1 or 2 takes: the reads and the writes RAZ_WI covers (R104). -/
theorem forall_not_selects_iff (w : Bool) (a : Slot) (d : Word) :
    (∀ r ∈ opcodeTable, r.priority ≤ 2 → r.selects (T39.ofFields w a d) = false) ↔
      (w = false ∧ (a = 3 ∨ (5 ≤ a.toNat ∧ a.toNat ≤ 15) ∨ 33 ≤ a.toNat)) ∨ (w = true ∧ (a = 2 ∨ 5 ≤ a.toNat)) := by
  have hrows : (∀ r ∈ priorityOneRows, ¬ r.selects (T39.ofFields w a d) = true) ↔ _ :=
    forall_selecting_priorityOne_iff (fun _ => False) w a d
  simp only [forall_priority_le_two_iff, ← Bool.not_eq_true, hrows, slotRow_selects_iff, ← readSlot_unlisted_iff,
    ← writeSlot_unlisted_iff]
  cases w with
  | false => simp
  | true => by_cases h3 : a = 3#6 <;> simp [h3]

/-! ### What an access answers -/

/-- R92: every write returns 0. -/
theorem rdataOf_decodeWrite (slot : Slot) (d : Word) (s : State) : rdataOf (decodeWrite slot d) s = 0 := by
  unfold decodeWrite decodeCommand
  split_ifs <;> rfl

theorem getLsbD_statusWord (s : State) (n : Nat) :
    s.statusWord.getLsbD n = if n = 0 then s.pktValid else if n = 1 then s.illegal else false := by
  rw [State.statusWord, BitVec.getLsbD_append, BitVec.getLsbD_append]
  match n with
  | 0 | 1 => simp
  | n + 2 => simp

/-- R96 as a record: `ILLEGAL` alone may change. -/
theorem clearIllegal_eq (d : Word) (s : State) :
    s.clearIllegal d = { s with illegal := if d.getLsbD 1 = true then false else s.illegal } := by
  unfold State.clearIllegal
  split <;> rfl

/-- R27: before the first BUILD every packet byte is 0, and bytes 14 to 64 always are. -/
theorem Inv.pkt_get_eq_zero {s : State} (h : Inv s) {i : Nat} (hi : i < 65) (hzero : s.pktValid = false ∨ 14 ≤ i) :
    s.pkt[i] = 0x00 := by
  cases hvalid : s.pktValid with
  | false => exact h.pkt_zero hvalid ⟨i, hi⟩
  | true =>
    obtain ⟨-, -, -, -, -, -, -, -, -, -, hpad⟩ := h.pkt_wf hvalid
    exact hpad ⟨i, hi⟩ (by simpa [hvalid] using hzero)

/-- R101: the window words that read 0. -/
theorem Inv.pktWord_eq_zero {s : State} (h : Inv s) {w : BitVec 4} (hzero : s.pktValid = false ∨ 4 ≤ w.toNat) :
    s.pktWord w = 0x00000000 := by
  have hw := w.isLt
  have hbyte (j : Nat) (hj : j < 4) : s.pkt[4 * w.toNat + j] = 0x00 :=
    h.pkt_get_eq_zero (by omega) (hzero.imp_right fun hle => by omega)
  have hpack : packBytes #v[0x00, 0x00, 0x00, 0x00] = 0x00000000 := by decide
  rw [State.pktWord, show s.pkt[4 * w.toNat] = 0x00 from hbyte 0 (by decide), hbyte 1 (by decide), hbyte 2 (by decide),
    hbyte 3 (by decide), hpack]

/-! ### Every access, and the accesses with no effect -/

/-- Settles O38: a write answers 0 whatever row it is, and a read has no effect. -/
theorem writesAnswerZeroAndReadsChangeNothing : Obligations.WritesAnswerZeroAndReadsChangeNothing := by
  refine T39.forall_fields.mpr fun w a d s => ?_
  cases w with
  | false => exact ⟨_, _, step_read s a d, rfl, fun h => by simp [T39.we_ofFields] at h, fun _ => rfl⟩
  | true =>
    refine ⟨_, _, exec_eq _ s, rfl, fun _ => ?_, fun h => by simp [T39.we_ofFields] at h⟩
    rw [decode_ofFields, if_pos rfl]
    exact rdataOf_decodeWrite a d s

/-- Settles O21: the words no listed row takes are those of RAZ_WI's slots, which the decoder sends there. -/
theorem razWiAnswersZeroAndChangesNothing : Obligations.RazWiAnswersZeroAndChangesNothing := by
  refine ⟨fun we slot d s => exec_eq (.razWi we slot d) s, T39.forall_fields.mpr fun w a d => ?_⟩
  rw [forall_not_selects_iff, decode_ofFields, T39.we_ofFields, T39.waddr_ofFields, T39.wdata_ofFields]
  refine ⟨fun hrange => ⟨?_, hrange⟩, And.right⟩
  obtain ⟨rfl, hread⟩ | ⟨rfl, hwrite⟩ := hrange
  · exact decodeRead_razWi_of_range hread d
  · exact decodeWrite_razWi_of_range hwrite d

/-- Settles O22: `ILLEGAL` is raised, and the words left over at slot 3 are reserved. -/
theorem cmdRsvdOnlySetsIllegal : Obligations.CmdRsvdOnlySetsIllegal :=
  ⟨fun c s => exec_eq (.cmdRsvd c) s, fun _ h h1 h2 h3 =>
    (decode_of_slotMask true 3 h).trans (decodeCommand_reserved h1 h2 h3)⟩

/-! ### The register writes -/

/-- Settles O13: the record equation is the frame, and slot 0 written is WR_TEMP. -/
theorem wrTempStoresTheWrittenWord : Obligations.WrTempStoresTheWrittenWord :=
  ⟨fun d s => exec_eq (.wrTemp d) s, fun _ h => decode_of_slotMask true 0 h⟩

/-- Settles O14: the record equation is the frame, and slot 1 written is WR_DIGITS. -/
theorem wrDigitsStoresTheWrittenWord : Obligations.WrDigitsStoresTheWrittenWord :=
  ⟨fun d s => exec_eq (.wrDigits d) s, fun _ h => decode_of_slotMask true 1 h⟩

/-- Settles O15: of the record `ILLEGAL` alone may change, and slot 4 written is WR_STATUS. -/
theorem wrStatusClearsIllegalByBitOne : Obligations.WrStatusClearsIllegalByBitOne := by
  refine ⟨fun d s => ?_, fun _ h => decode_of_slotMask true 4 h⟩
  rw [exec_eq, effect, clearIllegal_eq]
  rfl

/-! ### The register reads -/

/-- Settles O16: a read has no effect but its answer, and slots 0 and 1 read are these rows. -/
theorem rdTempAndRdDigitsAnswerTheRegister : Obligations.RdTempAndRdDigitsAnswerTheRegister :=
  ⟨fun g s => exec_eq (.rdTemp g) s, fun g s => exec_eq (.rdDigits g) s, fun _ h => decode_of_slotMask false 0 h,
    fun _ h => decode_of_slotMask false 1 h⟩

/-- Settles O18: the answer is `STATUS` bit by bit. -/
theorem rdStatusAnswersTheTwoFlags : Obligations.RdStatusAnswersTheTwoFlags := by
  refine ⟨fun g s => ⟨s.statusWord, exec_eq (.rdStatus g) s, getLsbD_statusWord s 0, getLsbD_statusWord s 1, fun n hn => ?_⟩,
    fun _ h => decode_of_slotMask false 4 h⟩
  rw [getLsbD_statusWord, if_neg (by omega), if_neg (by omega)]

/-! ### The packet window -/

/-- Settles O19: the bytes of a window word are in place, and they are 0 where the invariant says so. -/
theorem rdPktAnswersFourPacketBytes : Obligations.RdPktAnswersFourPacketBytes := by
  refine ⟨fun w g s => ⟨s.pktWord w, exec_eq (.rdPkt w g) s, fun j hj => ?bytes, fun hinv => hinv.pktWord_eq_zero⟩,
    fun x h => ?words⟩
  case bytes =>
    have hw := w.isLt
    rw [extract_pktWord s w hj, Vector.getElem?_eq_getElem (by omega), Option.getD_some]
  case words =>
    obtain ⟨hread, hlo, hhi⟩ := read_window_of_mask h
    rw [decode, hread, if_neg Bool.false_ne_true]
    exact ⟨hlo, decodeRead_window_sub hlo hhi x.wdata⟩

/-- Settles O20: byte 64 lies past the checksum, where the invariant keeps every byte 0. -/
theorem rdPkt16AnswersTheLastPacketByte : Obligations.RdPkt16AnswersTheLastPacketByte := by
  refine ⟨fun g s => ⟨s.pktLastWord, exec_eq (.rdPkt16 g) s, ?byte, fun hinv => ?zero⟩,
    fun _ h => decode_of_slotMask false 32 h⟩
  case byte => exact BitVec.toNat_setWidth_of_le (by decide)
  case zero =>
    rw [State.pktLastWord, hinv.pkt_get_eq_zero (by decide) (.inr (by decide))]
    rfl

end Sys2Proof
end

section
/-! The statements about the encoding both ways (30_encoding.md): the decoder and the encoder are inverse on well-formed
instructions, the priority 1 rows are disjoint, and the lines of the assembler give their transaction words. -/

namespace Sys2Proof

open Sys2Proof.Machine

/-! ### The decoder after the encoder -/

theorem decode_write (slot : Slot) (d : Word) : decode (T39.ofFields true slot d) = decodeWrite slot d :=
  decode_ofFields true slot d

theorem decode_read (slot : Slot) (ign : Word) : decode (T39.ofFields false slot ign) = decodeRead slot ign :=
  decode_ofFields false slot ign

theorem isReservedCommand_iff (c : Word) : isReservedCommand c = true ↔ c ≠ 1 ∧ c ≠ 2 ∧ c ≠ 3 := by
  simp [isReservedCommand, and_assoc]

theorem isRazWiSlot_read_iff (slot : Slot) :
    isRazWiSlot false slot = true ↔ slot = 3 ∨ (5 ≤ slot.toNat ∧ slot.toNat ≤ 15) ∨ 33 ≤ slot.toNat := by
  simp [isRazWiSlot, or_assoc]

theorem isRazWiSlot_write_iff (slot : Slot) : isRazWiSlot true slot = true ↔ slot = 2 ∨ 5 ≤ slot.toNat := by
  simp [isRazWiSlot]

/-- The slot of window word `w` lies in the window, and `w` is its `waddr[3:0]` (R55). -/
theorem windowSlot_fields (w : BitVec 4) :
    16 ≤ (1#2 ++ w : Slot).toNat ∧ (1#2 ++ w : Slot).toNat ≤ 31 ∧ (1#2 ++ w : Slot).extractLsb' 0 4 = w := by
  revert w
  decide

theorem decode_encode_of_wf {i : Instr} (h : i.wf = true) : decode (encode i) = i := by
  rw [encode, decode_ofFields]
  cases i with
  | rdPkt w ign =>
    obtain ⟨hlo, hhi, hindex⟩ := windowSlot_fields w
    exact (decodeRead_window hlo hhi ign).trans (by rw [hindex])
  | rdPkt16 ign => exact (if_neg Bool.false_ne_true).trans (decodeRead_lastWindow ign)
  | cmdRsvd c =>
    obtain ⟨h1, h2, h3⟩ := (isReservedCommand_iff c).mp h
    exact decodeCommand_reserved h1 h2 h3
  | razWi we slot d =>
    cases we with
    | false => exact decodeRead_razWi_of_range ((isRazWiSlot_read_iff slot).mp h) d
    | true => exact decodeWrite_razWi_of_range ((isRazWiSlot_write_iff slot).mp h) d
  | _ => rfl

/-- Settles O2: the rows with fixed fields compute, and well-formedness keeps the other two clear of them. -/
theorem decodeOfEncodeIsIdentity : Obligations.DecodeOfEncodeIsIdentity := fun _ => decode_encode_of_wf

/-! ### The encoder after the decoder -/

theorem encode_decodeCommand (c : Word) : encode (decodeCommand c) = T39.ofFields true 3 c := by
  unfold decodeCommand
  split_ifs with h1 h2 h3
  · rw [h1]; rfl
  · rw [h2]; rfl
  · rw [h3]; rfl
  · rfl

theorem encode_decodeWrite (slot : Slot) (d : Word) : encode (decodeWrite slot d) = T39.ofFields true slot d := by
  unfold decodeWrite
  split_ifs with h0 h1 h3 h4
  · rw [h0]; rfl
  · rw [h1]; rfl
  · rw [h3]; exact encode_decodeCommand d
  · rw [h4]; rfl
  · rfl

/-- A slot of the window is its window word behind `waddr[5:4] = 01` (R55). -/
theorem windowSlot_eq {slot : Slot} (h : slot.extractLsb' 4 2 = 1) : 1#2 ++ slot.extractLsb' 0 4 = slot := by
  revert slot
  decide

theorem encode_decodeRead (slot : Slot) (ign : Word) : encode (decodeRead slot ign) = T39.ofFields false slot ign := by
  unfold decodeRead
  split_ifs with h0 h1 h2 h4 hwindow hlast
  · rw [h0]; rfl
  · rw [h1]; rfl
  · rw [h2]; rfl
  · rw [h4]; rfl
  · exact congrArg (T39.ofFields false · ign) (windowSlot_eq hwindow)
  · rw [hlast]; rfl
  · rfl

theorem encode_decode (x : T39) : encode (decode x) = x := by
  revert x
  refine T39.forall_fields.mpr fun w a d => ?_
  cases w with
  | false => rw [decode_read, encode_decodeRead]
  | true => rw [decode_write, encode_decodeWrite]

/-! ### What the decoder gives is well formed -/

theorem decodeCommand_wf (c : Word) : (decodeCommand c).wf = true := by
  unfold decodeCommand
  split_ifs with h1 h2 h3
  · rfl
  · rfl
  · rfl
  · exact (isReservedCommand_iff c).mpr ⟨h1, h2, h3⟩

theorem decodeWrite_wf (slot : Slot) (d : Word) : (decodeWrite slot d).wf = true := by
  unfold decodeWrite
  split_ifs with h0 h1 h3 h4
  · rfl
  · rfl
  · exact decodeCommand_wf d
  · rfl
  · exact (isRazWiSlot_write_iff slot).mpr ((writeSlot_unlisted_iff slot).mp ⟨h0, h1, h4, h3⟩)

theorem decodeRead_wf (slot : Slot) (ign : Word) : (decodeRead slot ign).wf = true := by
  unfold decodeRead
  split_ifs with h0 h1 h2 h4 hwindow hlast
  case neg =>
    rw [extract_waddr_eq_one_iff] at hwindow
    exact (isRazWiSlot_read_iff slot).mpr ((readSlot_unlisted_iff slot).mp ⟨h0, h1, h2, h4, hwindow, hlast⟩)
  all_goals rfl

theorem decode_wf (x : T39) : (decode x).wf = true := by
  unfold decode
  split
  · exact decodeWrite_wf _ _
  · exact decodeRead_wf _ _

/-- Settles O3: the encoder inverts the decoder on every word, and decoding recovers any other candidate. -/
theorem everyWordEncodesExactlyOneInstruction : Obligations.EveryWordEncodesExactlyOneInstruction :=
  fun x => ⟨decode_wf x, encode_decode x, fun _ hwf henc => (decode_encode_of_wf hwf).symm.trans (congrArg decode henc)⟩

/-! ### The match and mask rows -/

/-- A mnemonic names one priority 1 row. -/
theorem priorityOneRow_eq_of_mnemonic_eq :
    ∀ r ∈ priorityOneRows, ∀ r' ∈ priorityOneRows, r.mnemonic = r'.mnemonic → r = r' := by
  decide

/-- Settles O5: a row that selects a word has the mnemonic of its instruction, and a word has one instruction. -/
theorem priorityOneRowsArePairwiseDisjoint : Obligations.PriorityOneRowsArePairwiseDisjoint :=
  fun r hr r' hr' hne x ⟨hsel, hsel'⟩ => hne <| priorityOneRow_eq_of_mnemonic_eq r hr r' hr' <|
    (mnemonic_decode_of_selects x r hr hsel).symm.trans (mnemonic_decode_of_selects x r' hr' hsel')

/-- Settles O1: the decoder computes on each word. -/
theorem specWordsDecodeToTheirInstructions : Obligations.SpecWordsDecodeToTheirInstructions := by
  unfold Obligations.SpecWordsDecodeToTheirInstructions
  decide

/-! ### The assembler -/

theorem valueWord_of_range {v : Int} (hlo : -2147483648 ≤ v) (hhi : v ≤ 4294967295) :
    valueWord v = some (BitVec.ofInt 32 v) :=
  if_pos ⟨hlo, hhi⟩

theorem valueWord_of_out_of_range {v : Int} (h : v < -2147483648 ∨ 4294967295 < v) : valueWord v = none := by
  refine if_neg ?_
  omega

/-- A value in range as its 32-bit pattern: a negative one as its two's complement (R60). -/
theorem toNat_ofInt_of_range {v : Int} (hlo : -2147483648 ≤ v) (hhi : v ≤ 4294967295) :
    ((BitVec.ofInt 32 v).toNat : Int) = if v < 0 then v + 4294967296 else v := by
  rw [BitVec.toNat_ofInt]
  split <;> omega

theorem assemble_wr_of_range (slot : Slot) {v : Int} (hlo : -2147483648 ≤ v) (hhi : v ≤ 4294967295) :
    (Line.wr slot v).assemble = some [T39.ofFields true slot (BitVec.ofInt 32 v)] := by
  rw [Line.assemble, valueWord_of_range hlo hhi]
  rfl

/-- `show` is `settemp` and then the command, whatever its value (R61). -/
theorem assemble_showTemp (v : Int) : (Line.showTemp v).assemble =
    (Line.wr 0 v).assemble.bind fun ws => (Line.wr 3 3).assemble.map fun vs => ws ++ vs := by
  simp only [Line.assemble]
  cases valueWord v <;> rfl

/-- The data of `setdig` as a number: its first byte is lowest (R61). -/
theorem assemble_setdig (b0 b1 b2 b3 : Byte) : (Line.setdig b0 b1 b2 b3).assemble =
    (Line.wr 1 (b3.toNat * 2 ^ 24 + b2.toNat * 2 ^ 16 + b1.toNat * 2 ^ 8 + b0.toNat : Nat)).assemble := by
  have hpack := toNat_packBytes b0 b1 b2 b3
  have hlt := (packBytes #v[b0, b1, b2, b3]).isLt
  rw [show b3.toNat * 2 ^ 24 + b2.toNat * 2 ^ 16 + b1.toNat * 2 ^ 8 + b0.toNat =
    (packBytes #v[b0, b1, b2, b3]).toNat by omega, assemble_wr_of_range 1 (by omega) (by omega), BitVec.ofInt_natCast,
    BitVec.ofNat_toNat, BitVec.setWidth_eq]
  rfl

/-- Settles O7: the lines with no value compute, and the others go by the range of the value. -/
theorem assemblerLinesExpandToTheirTransactions : Obligations.AssemblerLinesExpandToTheirTransactions := by
  refine ⟨fun _ => rfl, fun slot v hlo hhi => ⟨_, assemble_wr_of_range slot hlo hhi, toNat_ofInt_of_range hlo hhi⟩,
    fun slot v h => ?outOfRange, rfl, rfl, rfl, rfl, fun _ => rfl, assemble_showTemp, assemble_setdig, _, rfl, rfl,
    fun w hw => ?rdpkt⟩
  case outOfRange =>
    rw [Line.assemble, valueWord_of_out_of_range h]
    rfl
  case rdpkt =>
    rw [List.getElem?_map, List.getElem?_range hw]
    rfl

end Sys2Proof
end

section
/-! The statements about the step (00_scope.md, 60_exceptions.md, 70_reset_and_hazards.md): what one step runs, and
which steps change a data register. -/

namespace Sys2Proof

open Sys2Proof.Machine

/-! ### The step by the next input -/

theorem step_of_no_input {s : State} (h : s.host = []) : step s = .next s := by
  simp only [step, h]

theorem step_of_reset {s : State} {rest : List HostInput} (h : s.host = .reset :: rest) :
    step s = .next { State.reset with host := rest } := by
  simp only [step, h]
  rfl

theorem step_of_request {s : State} {x : T39} {rest : List HostInput} (h : s.host = .request x :: rest) :
    step s = exec (decode x) { s with host := rest } := by
  simp only [step, h]

/-- The table decoder reads the word that `withFetchWord` places. -/
theorem decode_of_decodeTableWord {nbits w : Nat} {i : Instr} (h : decodeTableWord nbits w = some i) :
    decode (BitVec.ofNat 39 (w % 2 ^ nbits)) = i := by
  unfold decodeTableWord decodeNat at h
  split at h
  · exact Option.some.inj h
  · exact nomatch h

/-- Settles O8: a step matches on the next input, and the table decoder agrees with the decoder. -/
theorem stepRunsTheDecodedRequest : Obligations.StepRunsTheDecodedRequest := by
  refine ⟨fun _ _ _ => step_of_request, step_withRequest, fun s nbits w i h => ?tableWord⟩
  case tableWord => rw [State.withFetchWord, step_withRequest, decode_of_decodeTableWord h]

/-- Settles O11, by the first case of a step. -/
theorem stepWithNoInputChangesNothing : Obligations.StepWithNoInputChangesNothing := fun _ => step_of_no_input

/-- Settles O12: each kind of next input has its next state, and no effect touches the inputs after it. -/
theorem everyStepAnswersANextState : Obligations.EveryStepAnswersANextState := by
  intro s
  match hhost : s.host with
  | [] => exact ⟨s, step_of_no_input hhost, hhost⟩
  | .reset :: rest => exact ⟨_, step_of_reset hhost, rfl⟩
  | .request x :: rest => exact ⟨_, (step_of_request hhost).trans (exec_eq _ _), effect_host _ _⟩

/-- Settles O45: a reset establishes the invariant. -/
theorem resetMeetsTheInvariant : Obligations.ResetMeetsTheInvariant := fun inputs =>
  inv_resetInput { State.reset with host := inputs }

/-- Settles O46, by the cases of a step. -/
theorem everyStepKeepsTheInvariant : Obligations.EveryStepKeepsTheInvariant := fun _ _ h hstep => h.step hstep

/-! ### The writers of each register -/

theorem effect_temp_cases (i : Instr) (s : State) : (effect i s).temp = s.temp ∨ i = .wrTemp (effect i s).temp := by
  cases i <;> simp [effect]

theorem effect_digits_cases (i : Instr) (s : State) :
    (effect i s).digits = s.digits ∨ i = .encode ∨ i = .encodeBuild ∨ i = .wrDigits (effect i s).digits := by
  cases i <;> simp [effect]

theorem effect_scaled_cases (i : Instr) (s : State) :
    (effect i s).scaled = s.scaled ∨ i = .encode ∨ i = .encodeBuild := by
  cases i <;> simp [effect]

theorem effect_pkt_cases (i : Instr) (s : State) : (effect i s).pkt = s.pkt ∨ i = .build ∨ i = .encodeBuild := by
  cases i <;> simp [effect]

/-- Settles O41: a step is nothing, a reset or an instruction, and each instruction keeps the registers it does not
write. -/
theorem dataRegistersChangeOnlyByTheirWriters : Obligations.DataRegistersChangeOnlyByTheirWriters := by
  intro s t h
  obtain ⟨-, rfl⟩ | ⟨rest, hhost, rfl⟩ | ⟨x, rest, hhost, rfl⟩ := step_cases h
  · exact .inr ⟨fun h => absurd rfl h, fun h => absurd rfl h, fun h => absurd rfl h, fun ⟨_, h⟩ => absurd rfl h⟩
  · exact .inl ⟨rest, hhost⟩
  · refine .inr ⟨fun hne => ?temp, fun hne => ?digits, fun hne => ?scaled, fun ⟨i, hne⟩ => ?pkt⟩
    case temp => exact ⟨x, rest, _, hhost, (effect_temp_cases (decode x) _).resolve_left hne, rfl⟩
    case digits => exact ⟨x, rest, hhost, (effect_digits_cases (decode x) _).resolve_left hne⟩
    case scaled => exact ⟨x, rest, hhost, (effect_scaled_cases (decode x) _).resolve_left hne⟩
    case pkt =>
      exact ⟨x, rest, hhost, (effect_pkt_cases (decode x) _).resolve_left fun heq => hne (congrArg (·[i]) heq)⟩

end Sys2Proof
end

section
/-! The statements about the register space as a whole (10_state.md, 20_memory.md): the address map, repeated writes,
and the bytes of a word. -/

namespace Sys2Proof

open Sys2Proof.Machine

/-! ### The bytes of a word -/

theorem digitBytes_get (w : Word) (k : Fin 4) : (digitBytes w)[k] = w.extractLsb' (8 * k.val) 8 := by
  match k with
  | 0 | 1 | 2 | 3 => rfl

/-- Packing the bytes of a word gives the word back (R15, R38). -/
theorem packBytes_digitBytes (w : Word) : packBytes (digitBytes w) = w := by
  apply BitVec.eq_of_getLsbD_eq
  intro i hi
  rw [digitBytes, getLsbD_packBytes]
  simp only [BitVec.getLsbD_extractLsb']
  split_ifs with h0 h1 h2
  · simp [h0]
  · simp [h1, show 8 + (i - 8) = i by omega]
  · simp [h2, show 16 + (i - 8 - 8) = i by omega]
  · simp [show 24 + (i - 8 - 8 - 8) = i by omega, show i - 8 - 8 - 8 < 8 by omega]

/-- Settles O40, byte by byte and bit by bit. -/
theorem digitsPackAndUnpack : Obligations.DigitsPackAndUnpack :=
  ⟨digitBytes_get, packBytes_digitBytes, digitBytes_packBytes_vector⟩

/-! ### SCALED as read -/

/-- Bits 13:0 as a number (R16). -/
theorem toNat_scaledValue (s : State) : s.scaledValue.toNat = s.scaled.toNat % 2 ^ 14 := by
  rw [State.scaledValue, BitVec.toNat_setWidth_of_le (by decide), BitVec.extractLsb'_toNat, Nat.shiftRight_zero]

/-- R99: where bits 31:14 are 0 the register is read whole. -/
theorem scaledValue_eq_scaled {s : State} (h : s.scaled.extractLsb' 14 18 = 0) : s.scaledValue = s.scaled := by
  have hhigh : s.scaled.toNat / 2 ^ 14 % 2 ^ 18 = 0 := by
    rw [← Nat.shiftRight_eq_div_pow, ← BitVec.extractLsb'_toNat, h]
    rfl
  have hlt := s.scaled.isLt
  apply BitVec.eq_of_toNat_eq
  rw [toNat_scaledValue]
  omega

/-- Settles O17: the answer is bits 13:0, and slot 2 read is this row. -/
theorem rdScaledAnswersTheScaledValue : Obligations.RdScaledAnswersTheScaledValue :=
  ⟨fun g s => ⟨s.scaledValue, exec_eq (.rdScaled g) s, toNat_scaledValue s, scaledValue_eq_scaled⟩,
    fun _ h => decode_of_slotMask false 2 h⟩

/-! ### The address map -/

/-- Window words 0 to 15, as the instruction and as the address map reads them (R36). -/
theorem pktWord_eq_windowWord (s : State) (w : BitVec 4) : s.pktWord w = windowWord s.pkt w.toNat := by
  have hw := w.isLt
  have hget (n : Nat) (hn : n < 65) : s.pkt.toList.getD n 0 = s.pkt[n] := by
    rw [List.getD_eq_getElem _ _ (by simpa using hn), Vector.getElem_toList]
  rw [State.pktWord, windowWord, hget _ (by omega), hget _ (by omega), hget _ (by omega), hget _ (by omega)]

/-- Window word 16 is byte 64 with nothing behind it (R36). -/
theorem pktLastWord_eq_windowWord (s : State) : s.pktLastWord = windowWord s.pkt 16 := by
  have hwindow : windowWord s.pkt 16 = packBytes #v[s.pkt[64], 0, 0, 0] := by
    simp [windowWord, List.getD_eq_getElem?_getD]
  apply BitVec.eq_of_toNat_eq
  rw [hwindow, toNat_packBytes, State.pktLastWord, zextByte, BitVec.toNat_setWidth_of_le (by decide)]
  simp

/-- The rows PKT0 to PKT16 of R35. -/
theorem busRead_window {slot : Slot} (hlo : 16 ≤ slot.toNat) (hhi : slot.toNat ≤ 32) (s : State) :
    busRead s slot = windowWord s.pkt (slot.toNat - 16) := by
  unfold busRead
  split
  case h_5 => exact if_pos ⟨hlo, hhi⟩
  all_goals omega

/-- The slots of no readable register read 0 (R35). -/
theorem busRead_razWi {slot : Slot} (h : slot = 3 ∨ (5 ≤ slot.toNat ∧ slot.toNat ≤ 15) ∨ 33 ≤ slot.toNat) (s : State) :
    busRead s slot = 0 := by
  obtain rfl | hrange := h
  · rfl
  · unfold busRead
    split
    case h_5 => exact if_neg (by omega)
    all_goals omega

/-- The "read" column of R35 is what the row of each slot answers. -/
theorem rdataOf_decodeRead (slot : Slot) (ign : Word) (s : State) :
    rdataOf (decodeRead slot ign) s = busRead s slot := by
  unfold decodeRead
  split_ifs with h0 h1 h2 h4 hwindow hlast
  · rw [h0]; rfl
  · rw [h1]; rfl
  · rw [h2]; rfl
  · rw [h4]; rfl
  · obtain ⟨hlo, hhi⟩ := (extract_waddr_eq_one_iff slot).mp hwindow
    rw [busRead_window hlo (by omega), ← toNat_windowIndex hlo hhi]
    exact pktWord_eq_windowWord s _
  · rw [hlast]; exact pktLastWord_eq_windowWord s
  · rw [extract_waddr_eq_one_iff] at hwindow
    exact (busRead_razWi ((readSlot_unlisted_iff slot).mp ⟨h0, h1, h2, h4, hwindow, hlast⟩) s).symm

theorem effect_decodeCommand (c : Word) (s : State) : effect (decodeCommand c) s = performCommand c s := by
  unfold decodeCommand
  split_ifs with h1 h2 h3
  · rw [h1]; rfl
  · rw [h2]; rfl
  · rw [h3]; rfl
  · unfold performCommand
    split
    case h_1 h => exact absurd (BitVec.eq_of_toNat_eq h) h1
    case h_2 h => exact absurd (BitVec.eq_of_toNat_eq h) h2
    case h_3 h => exact absurd (BitVec.eq_of_toNat_eq h) h3
    case h_4 => rfl

/-- The "write" column of R35 is the effect of the row of each slot. -/
theorem effect_decodeWrite (slot : Slot) (d : Word) (s : State) :
    effect (decodeWrite slot d) s = busWrite s slot d := by
  unfold decodeWrite
  split_ifs with h0 h1 h3 h4
  · rw [h0]; rfl
  · rw [h1]; rfl
  · rw [h3]; exact effect_decodeCommand d s
  · rw [h4]; rfl
  · unfold busWrite
    split
    case h_1 h => exact absurd (BitVec.eq_of_toNat_eq h) h0
    case h_2 h => exact absurd (BitVec.eq_of_toNat_eq h) h1
    case h_3 h => exact absurd (BitVec.eq_of_toNat_eq h) h3
    case h_4 h => exact absurd (BitVec.eq_of_toNat_eq h) h4
    case h_5 => rfl

/-- A write transaction has the effect of the "write" column and answers 0. -/
theorem step_write (s : State) (slot : Slot) (d : Word) :
    step (s.withRequest (T39.ofFields true slot d)) = .next ((busWrite s slot d).respond 0) := by
  rw [step_withRequest, exec_eq, decode_write, effect_decodeWrite, rdataOf_decodeWrite]

/-- Settles O37: the rows of the decoder and the columns of the address map agree slot by slot. -/
theorem transactionsFollowTheAddressMap : Obligations.TransactionsFollowTheAddressMap :=
  fun s slot d => ⟨rdataOf_decodeRead slot d s ▸ step_read s slot d, step_write s slot d⟩

/-! ### Repeated writes -/

/-- No instruction reads the last response or keeps it. -/
theorem effect_respond (i : Instr) (s : State) (v : Word) : effect i (s.respond v) = (effect i s).respond v := by
  cases i with
  | wrStatus d => simp only [effect, clearIllegal_eq]; rfl
  | _ => rfl

/-- The same instruction again has no further effect: none reads what it writes. -/
theorem effect_effect (i : Instr) (s : State) : effect i (effect i s) = effect i s := by
  cases i with
  | wrStatus d => simp [effect, clearIllegal_eq]
  | _ => rfl

/-- R92 on the word of a write. -/
theorem rdataOf_write {x : T39} (h : x.we = true) (s : State) : rdataOf (decode x) s = 0 := by
  rw [decode, if_pos h, rdataOf_decodeWrite]

/-- Settles O39: the effect is idempotent, and both writes answer 0. -/
theorem everyWriteIsIdempotent : Obligations.EveryWriteIsIdempotent := by
  refine fun x s hwe => ⟨(effect (decode x) s).respond 0, ?_, ?_⟩
  · rw [step_withRequest, exec_eq, rdataOf_write hwe]
  · rw [step_withRequest, exec_eq, rdataOf_write hwe, effect_respond, effect_effect]
    rfl

end Sys2Proof
end

section
/-! The statements about runs (70_reset_and_hazards.md): a run reaches its end, what its reads return, and producing and
forwarding a packet. -/

namespace Sys2Proof

open Sys2Proof.Machine

/-! ### The end of a run -/

/-- Settles O49, by induction on the transactions: each answers, with read data exactly when it is a read. -/
theorem runsNeverStopThemselves : Obligations.RunsNeverStopThemselves := by
  intro s xs
  induction xs generalizing s with
  | nil => exact ⟨s, [], rfl, rfl, rfl⟩
  | cons x xs ih =>
    obtain ⟨t, seen, hrun, hlen, hhost⟩ := ih ((effect (decode x) s).respond (rdataOf (decode x) s))
    refine ⟨t, _, by rw [runTransactions_cons, hrun], ?length, hhost.trans (effect_host _ _)⟩
    case length =>
      rw [List.length_append, hlen]
      cases hwe : x.we <;> simp [hwe, Nat.add_comm]

/-- A run of reads returns the "read" column of R35 for each slot and changes only the response. -/
theorem runTransactions_reads (s : State) (slots : List Slot) :
    ∃ t, runTransactions s (slots.map asmRead) = .next (t, slots.map (busRead s)) ∧ t = { s with rsp := t.rsp } := by
  induction slots generalizing s with
  | nil => exact ⟨s, rfl, rfl⟩
  | cons slot slots ih =>
    obtain ⟨t, hrun, ht⟩ := ih (s.respond (busRead s slot))
    have hread : decode (asmRead slot) = decodeRead slot 0 := decode_read slot 0
    have hwe : (asmRead slot).we = false := T39.we_ofFields false slot 0
    refine ⟨t, ?_, ht⟩
    rw [List.map_cons, runTransactions_cons, hread, effect_decodeRead, rdataOf_decodeRead, hrun, hwe]
    rfl

/-! ### Forwarding the packet -/

/-- The slots of the packet window, PKT0 to PKT16 (R35). -/
def windowSlots : List Slot := (List.range 17).map fun w => BitVec.ofNat 6 (16 + w)

theorem assemble_rdpkt : Line.rdpkt.assemble = some (windowSlots.map asmRead) := by
  rw [windowSlots, List.map_map]
  rfl

theorem map_busRead_windowSlots (s : State) : windowSlots.map (busRead s) = (List.range 17).map (windowWord s.pkt) := by
  rw [windowSlots, List.map_map]
  refine List.map_congr_left fun w hw => ?_
  have hlt := List.mem_range.mp hw
  have hslot : (BitVec.ofNat 6 (16 + w)).toNat = 16 + w := by
    rw [BitVec.toNat_ofNat]
    omega
  rw [Function.comp_apply, busRead_window (by omega) (by omega), hslot, Nat.add_sub_cancel_left]

/-- Groups of four in order are one sequence. -/
theorem flatMap_range_four {α : Type} (f : Nat → α) (n : Nat) :
    ((List.range n).flatMap fun w => [f (4 * w), f (4 * w + 1), f (4 * w + 2), f (4 * w + 3)]) =
      (List.range (4 * n)).map f := by
  induction n with
  | zero => rfl
  | succ n ih => simp [List.range_succ, ih, Nat.mul_succ]

/-- The bytes of the 17 window words, taken as R38 says, are the packet in index order. -/
theorem forwardPacket_windowWords (p : Vector Byte 65) :
    forwardPacket ((List.range 17).map (windowWord p)) = p.toList := by
  have hbytes (w : Nat) : (digitBytes (windowWord p w)).toList = [p.toList.getD (4 * w) 0, p.toList.getD (4 * w + 1) 0,
      p.toList.getD (4 * w + 2) 0, p.toList.getD (4 * w + 3) 0] := by
    rw [windowWord, digitBytes_packBytes]
    rfl
  rw [forwardPacket, List.flatMap_map]
  simp only [hbytes]
  rw [flatMap_range_four (p.toList.getD · 0), ← List.map_take, List.take_range]
  refine List.ext_getElem (by simp) fun i hi hi' => ?_
  rw [List.getElem_map, List.getElem_range, List.getD_eq_getElem _ _ hi']

/-- The 17 reads of `rdpkt` run, forward the packet, and change only the response. -/
theorem run_rdpkt (s : State) :
    ∃ t words, runTransactions s (windowSlots.map asmRead) = .next (t, words) ∧ words.length = 17 ∧
      forwardPacket words = s.pkt.toList ∧ t = { s with rsp := t.rsp } := by
  obtain ⟨t, hrun, ht⟩ := runTransactions_reads s windowSlots
  refine ⟨t, _, hrun, rfl, ?_, ht⟩
  rw [map_busRead_windowSlots, forwardPacket_windowWords]

/-- Settles O50, by the run of the 17 window reads. -/
theorem rdpktForwardsTheWholePacket : Obligations.RdpktForwardsTheWholePacket := by
  intro s
  obtain ⟨t, words, hrun⟩ := run_rdpkt s
  exact ⟨_, t, words, assemble_rdpkt, hrun⟩

/-- The state after TEMP is written and the packet of it produced. -/
def produced (s : State) (temp : Word) : State := ({ s with temp }.encodeBody.buildBody).respond 0

/-- Both ways to produce a packet leave the same state (R86). -/
theorem run_produce (s : State) (temp : Word) {cmds : List T39}
    (h : cmds = [T39.ofFields true 3 3] ∨ cmds = [T39.ofFields true 3 1, T39.ofFields true 3 2]) :
    runTransactions s (T39.ofFields true 0 temp :: cmds) = .next (produced s temp, []) := by
  obtain rfl | rfl := h <;>
  · simp only [runTransactions_cons, decode_write, T39.we_ofFields]
    rfl

/-- Settles O51: the produced state holds the packet of the display, and the reads forward it. -/
theorem producingAPacketForwardsTheEncodedTemperature : Obligations.ProducingAPacketForwardsTheEncodedTemperature := by
  refine fun s temp => ⟨_, assemble_rdpkt, fun cmds hcmds => ?_⟩
  obtain ⟨t, words, hrun, -, hforward, ht⟩ := run_rdpkt (produced s temp)
  have hpkt : t.pkt = packet (display (scale temp)) := by
    rw [ht]
    exact encodeBuild_pkt { s with temp }
  have hscaled : t.scaled.toNat = scale temp := by
    rw [ht]
    exact encodeBody_scaled_toNat { s with temp }
  refine ⟨t, words, by rw [runTransactions_append (run_produce s temp hcmds), hrun]; rfl, ?forward, ?wellFormed, ?temp,
    ?scaled, fun k => ?digit⟩
  case forward => rw [hforward, ht]
  case wellFormed => exact hpkt ▸ packet_wellFormed _
  case temp => rw [ht]; rfl
  case scaled => rw [hscaled, coe_scale]
  case digit => simp only [hpkt, hscaled, packet_digit]

/-! ### What a later read returns -/

/-- A read at the end of a run returns the "read" column of R35 at the state the run leaves. -/
theorem readsAfter_of_run {s t : State} {xs : List T39} {seen : List Word} (h : runTransactions s xs = .next (t, seen))
    (slot : Slot) : ReadsAfter s xs slot (busRead t slot) := by
  obtain ⟨u, hread, -⟩ := runTransactions_reads t [slot]
  refine ⟨u, seen, ?_⟩
  rw [runTransactions_append h]
  simp only [List.map_cons, List.map_nil, asmRead] at hread
  rw [hread]

/-- What a transaction establishes and no later one of the run takes away holds at the end, where the reads are. -/
theorem exists_readsAfter {P : State → Prop} (hrespond : ∀ u v, P u → P (u.respond v)) {s : State} {x : T39}
    {xs : List T39} (hx : P (effect (decode x) s)) (hxs : ∀ y ∈ xs, ∀ u, P u → P (effect (decode y) u)) :
    ∃ t, P t ∧ ∀ slot, ReadsAfter s (x :: xs) slot (busRead t slot) := by
  obtain ⟨t, seen, hrun, -⟩ := runsNeverStopThemselves ((effect (decode x) s).respond (rdataOf (decode x) s)) xs
  refine ⟨t, runTransactions_keeps (fun y hy u hu => hrespond _ _ (hxs y hy u hu)) (hrespond _ _ hx) hrun,
    readsAfter_of_run (by rw [runTransactions_cons, hrun])⟩

/-- TEMP reads what a transaction left there, up to the next WR_TEMP (R45). -/
theorem readsAfter_temp (s : State) (x : T39) {xs : List T39} (hxs : ∀ y ∈ xs, ∀ e, decode y ≠ .wrTemp e) :
    ReadsAfter s (x :: xs) 0 (effect (decode x) s).temp := by
  obtain ⟨t, ht, hread⟩ := exists_readsAfter (P := fun u => u.temp = (effect (decode x) s).temp) (fun _ _ h => h) rfl
    fun y hy u hu => ((effect_temp_cases (decode y) u).resolve_right (hxs y hy _)).trans hu
  exact ht ▸ hread 0

/-- DIGITS reads what a transaction left there, up to the next of its writers (R45). -/
theorem readsAfter_digits (s : State) (x : T39) {xs : List T39}
    (hxs : ∀ y ∈ xs, (∀ e, decode y ≠ .wrDigits e) ∧ decode y ≠ .encode ∧ decode y ≠ .encodeBuild) :
    ReadsAfter s (x :: xs) 1 (effect (decode x) s).digits := by
  obtain ⟨t, ht, hread⟩ := exists_readsAfter (P := fun u => u.digits = (effect (decode x) s).digits)
    (fun _ _ h => h) rfl fun y hy u hu => by
      obtain ⟨hwrite, hencode, hencodeBuild⟩ := hxs y hy
      exact ((effect_digits_cases (decode y) u).resolve_right
        (not_or.mpr ⟨hencode, not_or.mpr ⟨hencodeBuild, hwrite _⟩⟩)).trans hu
  exact ht ▸ hread 1

/-- SCALED reads what a transaction left there, up to the next ENCODE or ENCODE_BUILD (R45). -/
theorem readsAfter_scaled (s : State) (x : T39) {xs : List T39}
    (hxs : ∀ y ∈ xs, decode y ≠ .encode ∧ decode y ≠ .encodeBuild) :
    ReadsAfter s (x :: xs) 2 (effect (decode x) s).scaledValue := by
  obtain ⟨t, ht, hread⟩ := exists_readsAfter (P := fun u => u.scaled = (effect (decode x) s).scaled)
    (fun _ _ h => h) rfl fun y hy u hu =>
      ((effect_scaled_cases (decode y) u).resolve_right (not_or.mpr (hxs y hy))).trans hu
  rw [State.scaledValue, ← ht]
  exact hread 2

/-- The packet window reads what a transaction left there, up to the next BUILD or ENCODE_BUILD (R45). -/
theorem readsAfter_window (s : State) (x : T39) {xs : List T39}
    (hxs : ∀ y ∈ xs, decode y ≠ .build ∧ decode y ≠ .encodeBuild) {slot : Slot} (hlo : 16 ≤ slot.toNat)
    (hhi : slot.toNat ≤ 32) :
    ReadsAfter s (x :: xs) slot (windowWord (effect (decode x) s).pkt (slot.toNat - 16)) := by
  obtain ⟨t, ht, hread⟩ := exists_readsAfter (P := fun u => u.pkt = (effect (decode x) s).pkt) (fun _ _ h => h) rfl
    fun y hy u hu => ((effect_pkt_cases (decode y) u).resolve_right (not_or.mpr (hxs y hy))).trans hu
  rw [← ht, ← busRead_window hlo hhi]
  exact hread slot

/-- Byte `j` of window word `w` is packet byte `4w + j`, and zero past byte 64 (R36). -/
theorem extract_windowWord (p : Vector Byte 65) (w : Nat) {j : Nat} (hj : j < 4) :
    (windowWord p w).extractLsb' (8 * j) 8 = p[4 * w + j]?.getD 0x00 := by
  rw [← Vector.getElem?_toList, ← List.getD_eq_getElem?_getD, windowWord, extract_packBytes_get _ hj]
  match j with
  | 0 | 1 | 2 | 3 => rfl

/-- STATUS bit 0 reads 1 ever after a transaction that leaves it 1 (R19). -/
theorem readsAfter_pktValid (s : State) (x : T39) (xs : List T39) (h : (effect (decode x) s).pktValid = true) :
    ∃ v, ReadsAfter s (x :: xs) 4 v ∧ v.getLsbD 0 = true := by
  obtain ⟨t, ht, hread⟩ := exists_readsAfter (P := fun u => u.pktValid = true) (fun _ _ h => h) h
    fun y (_ : y ∈ xs) u hu => (effect_pktValid_iff (decode y) u).mpr (.inl hu)
  exact ⟨t.statusWord, hread 4, (getLsbD_statusWord t 0).trans ht⟩

/-- STATUS bit 1 reads 1 after a reserved command, up to the next STATUS write with bit 1 set (R20). -/
theorem readsAfter_illegal_raised (s : State) (x : T39) {xs : List T39} (h : ∃ c, decode x = .cmdRsvd c)
    (hxs : ∀ y ∈ xs, ∀ e, decode y = .wrStatus e → e.getLsbD 1 = false) :
    ∃ v, ReadsAfter s (x :: xs) 4 v ∧ v.getLsbD 1 = true := by
  obtain ⟨t, ht, hread⟩ := exists_readsAfter (P := fun u => u.illegal = true) (fun _ _ h => h)
    ((effect_illegal_iff (decode x) s).mpr (.inl h))
    fun y hy u hu => (effect_illegal_iff (decode y) u).mpr (.inr ⟨hu, hxs y hy⟩)
  exact ⟨t.statusWord, hread 4, (getLsbD_statusWord t 1).trans ht⟩

/-- STATUS bit 1 reads 0 after a transaction that leaves it 0, up to the next reserved command (R20). -/
theorem readsAfter_illegal_cleared (s : State) (x : T39) {xs : List T39} (h : (effect (decode x) s).illegal = false)
    (hxs : ∀ y ∈ xs, ∀ c, decode y ≠ .cmdRsvd c) :
    ∃ v, ReadsAfter s (x :: xs) 4 v ∧ v.getLsbD 1 = false := by
  have hkeep : ∀ y ∈ xs, ∀ u : State, u.illegal = false → (effect (decode y) u).illegal = false := by
    intro y hy u hu
    rw [← Bool.not_eq_true, effect_illegal_iff]
    rintro (⟨c, hc⟩ | ⟨hraised, -⟩)
    · exact hxs y hy c hc
    · simp [hu] at hraised
  obtain ⟨t, ht, hread⟩ := exists_readsAfter (P := fun u => u.illegal = false) (fun _ _ h => h) h hkeep
  exact ⟨t.statusWord, hread 4, (getLsbD_statusWord t 1).trans ht⟩

theorem effect_write (slot : Slot) (d : Word) (s : State) :
    effect (decode (T39.ofFields true slot d)) s = busWrite s slot d := by
  rw [decode_write, effect_decodeWrite]

/-- The value ENCODE and ENCODE_BUILD leave to read in `SCALED` (R65). -/
theorem coe_scaledValue_encode {c : Word} (hc : c = 1 ∨ c = 3) (s : State) :
    ((busWrite s 3 c).scaledValue.toNat : Int) = min (max (s.temp.toInt / 100) 0) 9999 := by
  have hscaled : (busWrite s 3 c).scaled = s.encodeBody.scaled := by
    obtain rfl | rfl := hc <;> rfl
  have hle := scale_le s.temp
  rw [toNat_scaledValue, hscaled, encodeBody_scaled_toNat, Nat.mod_eq_of_lt (by omega), coe_scale]

theorem pktValid_build {c : Word} (hc : c = 2 ∨ c = 3) (s : State) : (busWrite s 3 c).pktValid = true := by
  obtain rfl | rfl := hc <;> rfl

/-- Settles O48, register by register: the first transaction leaves the value, and the others keep it. -/
theorem readsReturnTheLastValueWritten : Obligations.ReadsReturnTheLastValueWritten := by
  refine fun s xs => ⟨fun d hxs => ?temp, fun hxs => ⟨fun d => ?wrDigits, fun c _ => ⟨_, step_write s 3 c, ?digits⟩⟩,
    fun c hc hxs => ⟨_, ?scaled, coe_scaledValue_encode hc s⟩,
    fun c hc => ⟨?pktValid, fun hxs => ⟨_, step_write s 3 c, fun slot hlo hhi =>
      ⟨_, ?window, fun j hj => extract_windowWord _ _ hj⟩⟩⟩,
    fun c h1 h2 h3 hxs => ?raised, fun d hd hxs => ?cleared⟩
  case temp =>
    have hread := readsAfter_temp s (T39.ofFields true 0 d) hxs
    rw [effect_write] at hread
    exact hread
  case wrDigits =>
    have hread := readsAfter_digits s (T39.ofFields true 1 d) hxs
    rw [effect_write] at hread
    exact hread
  case digits => exact effect_write 3 c s ▸ readsAfter_digits s _ hxs
  case scaled => exact effect_write 3 c s ▸ readsAfter_scaled s _ hxs
  case pktValid => exact readsAfter_pktValid s _ xs (effect_write 3 c s ▸ pktValid_build hc s)
  case window => exact effect_write 3 c s ▸ readsAfter_window s _ hxs hlo hhi
  case raised => exact readsAfter_illegal_raised s _ ⟨c, (decode_write 3 c).trans (decodeCommand_reserved h1 h2 h3)⟩ hxs
  case cleared =>
    refine readsAfter_illegal_cleared s _ ?_ hxs
    rw [effect_write]
    exact (State.clearIllegal_illegal d s).trans (if_pos hd)

end Sys2Proof
end

section
/-! The statements about the clocked port (20_memory.md section 1, 70_reset_and_hazards.md section 1): each edge by its
phase, the handshake, the wait after it, and reset. -/

namespace Sys2Proof.Machine

open Sys2Proof

/-! ### One edge, by its phase -/

theorem Port.accepts_iff (p : Port) (i : PinsIn) :
    p.accepts i = true ↔ i.rstN = true ∧ i.reqValid = true ∧ p.phase = .ready := by
  simp only [Port.accepts, Port.out, Bool.and_eq_true, decide_eq_true_eq]
  tauto

theorem Port.edge_reset {i : PinsIn} (h : i.rstN = false) (p : Port) :
    p.edge i = .next ⟨p.core.resetInput, .afterWait (Config.holdOffCycles p.drawn), p.drawn + 1⟩ := by
  rw [Port.edge, if_pos h, Port.resetEdge, step_withReset]
  rfl

theorem Port.edge_holdOff {i : PinsIn} (h : i.rstN = true) {p : Port} {left : Nat} (hp : p.phase = .holdOff left) :
    p.edge i = .next { p with phase := .afterWait left } := by
  simp [Port.edge, h, hp]

theorem Port.edge_accept {p : Port} {i : PinsIn} (h : p.accepts i = true) :
    p.edge i = (p.drawing .ready).proceed i.word (Config.busyCycles p.drawn) := by
  obtain ⟨hrst, hvalid, hready⟩ := (p.accepts_iff i).mp h
  simp [Port.edge, hrst, hvalid, hready]

theorem Port.edge_idle {i : PinsIn} (h : i.rstN = true) (hvalid : i.reqValid = false) {p : Port}
    (hp : p.phase = .ready) : p.edge i = .next p := by
  simp [Port.edge, h, hvalid, hp]

theorem Port.edge_busy {i : PinsIn} (h : i.rstN = true) {p : Port} {x : T39} {left : Nat}
    (hp : p.phase = .busy x left) : p.edge i = p.proceed x left := by
  simp [Port.edge, h, hp]

theorem Port.edge_respond {i : PinsIn} (h : i.rstN = true) {p : Port} (hp : p.phase = .respond) :
    p.edge i = .next (p.drawing (.afterWait (Config.holdOffCycles p.drawn))) := by
  simp [Port.edge, h, hp]

/-! ### The outputs -/

theorem Port.reqReady_eq_false {p : Port} (hp : p.phase ≠ .ready) (o : PinsIn) : (p.out o).reqReady = false := by
  simp [Port.out, hp]

theorem Port.reqReady_eq_true {p : Port} (hp : p.phase = .ready) {o : PinsIn} (ho : o.rstN = true) :
    (p.out o).reqReady = true := by
  simp [Port.out, hp, ho]

theorem Port.rsp_eq_none {p : Port} (hp : p.phase ≠ .respond) (o : PinsIn) : (p.out o).rsp = none := by
  simp [Port.out, hp]

/-- What an edge with `rst_n = 0` does, whatever the phase and the request on the pins (R119). -/
theorem Port.reset_of_rstN {i : PinsIn} (h : i.rstN = false) (p : Port) :
    p.accepts i = false ∧ (p.out i).reqReady = false ∧ (p.out i).rsp = none := by
  simp [Port.accepts, Port.out, h]

theorem Phase.afterWait_ne_respond (n : Nat) : Phase.afterWait n ≠ .respond := by
  obtain h | ⟨m, h⟩ := Phase.afterWait_cases n <;> simp [h]

/-! ### Edges in a row -/

theorem Port.edges_cons {p q : Port} {i : PinsIn} (h : p.edge i = .next q) (rest : List PinsIn) :
    p.edges (i :: rest) = q.edges rest := by
  rw [Port.edges, h]

theorem Port.proceed_with_phase (p : Port) (ph : Phase) (x : T39) (n : Nat) :
    { p with phase := ph }.proceed x n = p.proceed x n := by
  cases n with
  | zero => rw [Port.proceed_zero, Port.proceed_zero]
  | succ n => rfl

/-- Going on with a request is one whole step of it, or one more busy cycle with the state as it was. -/
theorem Port.exists_proceed (p : Port) (x : T39) (n : Nat) :
    ∃ q, p.proceed x n = .next q ∧ if n = 0 then step (p.core.withRequest x) = .next q.core ∧ q.phase = .respond
      else q.core = p.core ∧ q.phase = .busy x (n - 1) := by
  cases n with
  | zero => exact ⟨_, p.proceed_zero x, exec_eq _ _, rfl⟩
  | succ n => exact ⟨_, p.proceed_succ x n, rfl, rfl⟩

/-- Each edge of an outstanding transaction counts one busy cycle down, whatever the host drives but reset. -/
theorem Port.edges_proceed (p : Port) (x : T39) {rest : List PinsIn} (hrest : ∀ j ∈ rest, j.rstN = true) (m : Nat) :
    ∃ q, p.proceed x (rest.length + m) = .next q ∧ q.edges rest = p.proceed x m := by
  induction rest generalizing p with
  | nil =>
    rw [List.length_nil, Nat.zero_add]
    obtain ⟨q, hproceed, -⟩ := p.exists_proceed x m
    exact ⟨q, hproceed, hproceed.symm⟩
  | cons j rest ih =>
    obtain ⟨hj, hrest⟩ := List.forall_mem_cons.mp hrest
    obtain ⟨q, hproceed, hedges⟩ := ih { p with phase := .busy x (rest.length + m) } hrest
    refine ⟨_, by rw [List.length_cons, Nat.add_right_comm, Port.proceed_succ], ?_⟩
    rw [Port.edges_cons ((Port.edge_busy hj rfl).trans hproceed), hedges, Port.proceed_with_phase]

/-- From acceptance on, the edges go on with the accepted request and with nothing else. -/
theorem Port.edges_accept {p : Port} {i : PinsIn} (haccepts : p.accepts i = true) {rest : List PinsIn}
    (hrest : ∀ j ∈ rest, j.rstN = true) {m : Nat} (hwait : Config.busyCycles p.drawn = rest.length + m) :
    p.edges (i :: rest) = (p.drawing .ready).proceed i.word m := by
  obtain ⟨q, hproceed, hedges⟩ := (p.drawing .ready).edges_proceed i.word hrest m
  rw [Port.edges_cons ((Port.edge_accept haccepts).trans (hwait ▸ hproceed)), hedges]

/-- A wait of as many cycles as there are edges ends in a ready port with the same state. -/
theorem Port.edges_afterWait (p : Port) {rest : List PinsIn} (hrest : ∀ j ∈ rest, j.rstN = true)
    (hp : p.phase = .afterWait rest.length) : p.edges rest = .next { p with phase := .ready } := by
  induction rest generalizing p with
  | nil =>
    have hready : p.phase = .ready := hp
    rw [Port.edges, ← hready]
  | cons j rest ih =>
    obtain ⟨hj, hrest⟩ := List.forall_mem_cons.mp hrest
    rw [Port.edges_cons (Port.edge_holdOff hj hp), ih _ hrest rfl]

end Sys2Proof.Machine

namespace Sys2Proof

open Sys2Proof.Machine

/-- Settles O53, by the phase: a busy port and an accepting one go on with their request, and the rest only wait. -/
theorem clockEdgeIsOneWholeStepOrNone : Obligations.ClockEdgeIsOneWholeStepOrNone := by
  intro p i
  cases hrst : i.rstN with
  | false =>
    refine ⟨_, Port.edge_reset hrst p, fun _ => step_withReset p.core, ?_⟩
    simp [Port.accepts_iff, hrst]
  | true =>
    match hp : p.phase with
    | .holdOff left =>
      refine ⟨_, Port.edge_holdOff hrst hp, ?_⟩
      simp [Port.accepts_iff, hp]
    | .ready =>
      cases hvalid : i.reqValid with
      | false =>
        refine ⟨p, Port.edge_idle hrst hvalid hp, ?_⟩
        simp [Port.accepts_iff, hvalid]
      | true =>
        have haccepts : p.accepts i = true := (p.accepts_iff i).mpr ⟨hrst, hvalid, hp⟩
        obtain ⟨q, hproceed, hq⟩ := (p.drawing .ready).exists_proceed i.word (Config.busyCycles p.drawn)
        refine ⟨q, (Port.edge_accept haccepts).trans hproceed, ?_, ?_, fun _ => hq, ?_⟩
        all_goals simp [haccepts]
    | .busy x left =>
      obtain ⟨q, hproceed, hq⟩ := p.exists_proceed x left
      refine ⟨q, (Port.edge_busy hrst hp).trans hproceed, by simp, fun _ y hy => ?step, by simp [Port.accepts_iff, hp],
        fun _ _ hy => ?kept⟩
      case step =>
        cases hy
        exact hq
      case kept =>
        have hleft : left ≠ 0 := by
          rintro rfl
          exact hy x rfl
        rw [if_neg hleft] at hq
        exact hq.1
    | .respond =>
      refine ⟨_, Port.edge_respond hrst hp, ?_⟩
      simp [Port.accepts_iff, hp, Port.drawing]

/-- Settles O54: `Port.edges_accept` with busy cycles still to come, and then with none. -/
theorem handshakePerformsTheAcceptedTransaction : Obligations.HandshakePerformsTheAcceptedTransaction := by
  refine fun p i rest haccepts hrest hlen => ⟨fun n hn => ?waiting, ?answered⟩
  case waiting =>
    have hlive : ∀ j ∈ rest.take n, j.rstN = true := fun j hj => hrest j (List.mem_of_mem_take hj)
    have hwait : Config.busyCycles p.drawn = (rest.take n).length + (rest.length - n - 1 + 1) := by
      rw [List.length_take]
      omega
    exact ⟨_, Port.edges_accept haccepts hlive hwait, rfl,
      fun o => ⟨Port.reqReady_eq_false (by simp) o, Port.rsp_eq_none (by simp) o⟩⟩
  case answered =>
    refine ⟨_, _, (Port.edges_accept haccepts hrest hlen.symm).trans (Port.proceed_zero _ _), exec_eq _ _, rfl,
      fun o ho => ⟨Port.reqReady_eq_false (by simp) o, ?_, _, Port.edge_respond ho rfl, rfl,
        Port.rsp_eq_none (Phase.afterWait_ne_respond _)⟩⟩
    simp [Port.out, ho, Port.drawing]

/-- Settles O56: the edge before the wait leaves the state, and the wait keeps it. -/
theorem portBecomesReadyAgain : Obligations.PortBecomesReadyAgain := by
  refine fun p i rest hrest hlen => ⟨fun hrst => ?reset, fun hrst hp => ?respond⟩
  case reset =>
    exact ⟨_, (Port.edges_cons (Port.edge_reset hrst p) rest).trans (Port.edges_afterWait _ hrest (by rw [hlen])),
      rfl, rfl, fun _ => Port.reqReady_eq_true rfl⟩
  case respond =>
    have hwait : (p.drawing (.afterWait (Config.holdOffCycles p.drawn))).phase = .afterWait rest.length := hlen ▸ rfl
    exact ⟨_, (Port.edges_cons (Port.edge_respond hrst hp) rest).trans (Port.edges_afterWait _ hrest hwait),
      rfl, rfl, fun _ => Port.reqReady_eq_true rfl⟩

/-- Settles O10, on the transaction level by the reset case of a step and on the pins by the reset edge. -/
theorem resetInputResetsEveryPieceOfState : Obligations.ResetInputResetsEveryPieceOfState := by
  refine ⟨fun _ _ => step_of_reset, fun p i hrst => ?_⟩
  obtain ⟨haccepts, hready, hrsp⟩ := Port.reset_of_rstN hrst p
  exact ⟨haccepts, hready, hrsp, _, Port.edge_reset hrst p, rfl⟩

/-- Settles O55: the reset edge leaves the reset state and a wait, where no response is present. -/
theorem resetAbandonsAnOutstandingTransaction : Obligations.ResetAbandonsAnOutstandingTransaction := by
  intro p i hrst
  obtain ⟨haccepts, -, hrsp⟩ := Port.reset_of_rstN hrst p
  exact ⟨haccepts, hrsp, _, Port.edge_reset hrst p, rfl, Phase.afterWait_cases _,
    Port.rsp_eq_none (Phase.afterWait_ne_respond _)⟩

end Sys2Proof
end
